-- ==== Sys2Proof/Word.lean ====
section
/-! DEFINITION. The word types of ASC (00_scope.md R8, R11, R12; 30_encoding.md R90): bytes, register addresses, access words. -/

namespace Sys2Proof

/-- A byte, a character code, an item of `DIN` or `DOUT`, the register data bus: `DATA_W` = 8 bits (R8, R94). -/
abbrev Byte := BitVec 8

/-- A register address: `ADDR_W` = 9 bits, an offset inside the block's window (R8, R60). -/
abbrev Addr := BitVec 9

/-- An access word of format `BUS`: 18 bits, `W` in bit 17, `A` in bits 16:8, `D` in bits 7:0 (R93). -/
abbrev BusWord := BitVec 18

end Sys2Proof
end

