-- ==== Sys2Proof/Syntax.lean ====
section
/-! DEFINITION. The abstract syntax: the five operations, the sixteen rows of spec/opcode_table.json, the two encoded
formats and the encodings no row covers (30_encoding.md R90 to R93, R99, R102). -/

namespace Sys2Proof

/-- The five operations of the block (00_scope.md R3, 30_encoding.md R92). -/
inductive Op where
  | b64e   -- Base64 encode
  | b64d   -- Base64 decode
  | xort   -- XOR with the cyclic key
  | aenc   -- XOR, then Base64 encode
  | adec   -- Base64 decode, then XOR
deriving DecidableEq, Repr

/-- One constructor per row of spec/opcode_table.json. The first five are the commands of format `CMD` with their `DK`
bit; the others are accesses of format `BUS`. `d` is the D field of a read, which R93 writes as `0x00`. -/
inductive Instr where
  /-- `B64E`: start Base64 encoding (R122). -/
  | b64e (dk : Bool)
  /-- `B64D`: start Base64 decoding (R142). -/
  | b64d (dk : Bool)
  /-- `XORT`: start the cipher (R162). -/
  | xort (dk : Bool)
  /-- `AENC`: start XOR then encode (R182). -/
  | aenc (dk : Bool)
  /-- `ADEC`: start decode then XOR (R183). -/
  | adec (dk : Bool)
  /-- `CMDW`: `WR(0x000, c)`, a command byte not yet decoded (R178). -/
  | cmdw (c : Byte)
  /-- `CTRLR`: `RD(0x000)` (R37). -/
  | ctrlr (d : Byte)
  /-- `STATR`: `RD(0x001)` (R38). -/
  | statr (d : Byte)
  /-- `STCLR`: `WR(0x001, m)` (R38). -/
  | stclr (m : Byte)
  /-- `KLENR`: `RD(0x002)` (R39). -/
  | klenr (d : Byte)
  /-- `KLENW`: `WR(0x002, n)` (R39). -/
  | klenw (n : Byte)
  /-- `PUSH`: `WR(0x003, v)` (R186). -/
  | push (v : Byte)
  /-- `POP`: `RD(0x004)` (R192). -/
  | pop (d : Byte)
  /-- `FIN`: `WR(0x005, x)` (R190). -/
  | fin (x : Byte)
  /-- `KEYR`: `RD(0x100 + i)` (R43). -/
  | keyr (i : Byte) (d : Byte)
  /-- `KEYW`: `WR(0x100 + i, v)` (R43). -/
  | keyw (i : Byte) (v : Byte)
deriving DecidableEq, Repr

/-- An encoded instruction in one of the two formats that carry instructions (R90). -/
inductive Encoded where
  | cmd (c : Byte)
  | bus (w : BusWord)
deriving DecidableEq, Repr

/-- Why an encoded word is no instruction of the table. -/
inductive Reject where
  /-- A command byte of no `CMD` row (R99). -/
  | reservedCommand
  /-- A read that matches no `BUS` row: `DIN`, `FIN`, a reserved address (R102, cause P7 of R216). -/
  | refusedRead
  /-- A write that matches no `BUS` row: `DOUT`, a reserved address (R102, cause P7 of R216). -/
  | refusedWrite
deriving DecidableEq, Repr

end Sys2Proof
end

