-- ==== Sys2Proof/Decode.lean ====
section
/-! DEFINITION. Decoding and encoding of the two instruction formats (30_encoding.md R90 to R93, R99, R102), total and
rejecting by name, and the entry point the host reads a table word with. -/

namespace Sys2Proof

/-! ## Format CMD -/

/-- The `OP` value of an operation (R92). -/
def opCode : Op → BitVec 3
  | .b64e => 0b001#3
  | .b64d => 0b010#3
  | .xort => 0b011#3
  | .aenc => 0b100#3
  | .adec => 0b101#3

/-- The operation an `OP` value selects; 0, 6 and 7 select none (R92). -/
def opOfCode (c : BitVec 3) : Option Op :=
  if c = 0b001#3 then some .b64e
  else if c = 0b010#3 then some .b64d
  else if c = 0b011#3 then some .xort
  else if c = 0b100#3 then some .aenc
  else if c = 0b101#3 then some .adec
  else none

/-- Field `OP` of a command byte, bits 2:0 (R91). -/
def cmdOp (c : Byte) : BitVec 3 := c.extractLsb' 0 3

/-- Field `DK` of a command byte, bit 3 (R91). -/
def cmdDk (c : Byte) : Bool := c.getLsbD 3

/-- Field `ZERO` of a command byte, bits 7:4 (R91). -/
def cmdZero (c : Byte) : BitVec 4 := c.extractLsb' 4 4

/-- The command byte `0000dooo` of an operation and its `DK` bit (R91). -/
def cmdByte (op : Op) (dk : Bool) : Byte := 0b0000#4 ++ BitVec.ofBool dk ++ opCode op

/-- The operation a command byte starts, none when the byte is reserved (R99). -/
def cmdOperation (c : Byte) : Option Op :=
  if cmdZero c = 0b0000#4 then opOfCode (cmdOp c) else none

/-- The row of group `CMD` that starts an operation (R102). -/
def startInstr (op : Op) (dk : Bool) : Instr :=
  match op with
  | .b64e => .b64e dk
  | .b64d => .b64d dk
  | .xort => .xort dk
  | .aenc => .aenc dk
  | .adec => .adec dk

/-- Decoding a command byte (R91, R99, R102). -/
def decodeCmd (c : Byte) : Except Reject Instr :=
  match cmdOperation c with
  | some op => .ok (startInstr op (cmdDk c))
  | none => .error .reservedCommand

/-! ## Format BUS -/

/-- Field `W` of an access word, bit 17: a write (R93). -/
def busW (w : BusWord) : Bool := w.getLsbD 17

/-- Field `A` of an access word, bits 16:8 (R93). -/
def busA (w : BusWord) : Addr := w.extractLsb' 8 9

/-- Field `D` of an access word, bits 7:0 (R93). -/
def busD (w : BusWord) : Byte := w.extractLsb' 0 8

/-- The key index in a key-store address, address bits 7:0 (R43). -/
def keyIndex (a : Addr) : Byte := a.extractLsb' 0 8

/-- The word of the access `WR(a, v)` (R93, R103). -/
def wr (a : Addr) (v : Byte) : BusWord := 1#1 ++ a ++ v

/-- The word of the access `RD(a)`, with `d` in its D field: `0x00` as R93 writes it. -/
def rdWith (a : Addr) (d : Byte) : BusWord := 0#1 ++ a ++ d

/-- The word of the access `RD(a)` (R93, R103). -/
def rd (a : Addr) : BusWord := rdWith a 0x00#8

/-- The address of `KEY[i]`, `0x100 + i` (R43). -/
def keyAddr (i : Byte) : Addr := 1#1 ++ i

/-- Decoding a write (R102): address bit 8 selects the key store; of the others `CTRL`, `STATUS`, `KLEN`, `DIN` and
`FIN` take writes. -/
def decodeWrite (a : Addr) (v : Byte) : Except Reject Instr :=
  if a.getLsbD 8 then .ok (.keyw (keyIndex a) v)
  else if a = 0x000#9 then .ok (.cmdw v)
  else if a = 0x001#9 then .ok (.stclr v)
  else if a = 0x002#9 then .ok (.klenw v)
  else if a = 0x003#9 then .ok (.push v)
  else if a = 0x005#9 then .ok (.fin v)
  else .error .refusedWrite

/-- Decoding a read (R102): address bit 8 selects the key store; of the others `CTRL`, `STATUS`, `KLEN` and `DOUT` are
read. The mask of every read row leaves D free (log entry 5). -/
def decodeRead (a : Addr) (d : Byte) : Except Reject Instr :=
  if a.getLsbD 8 then .ok (.keyr (keyIndex a) d)
  else if a = 0x000#9 then .ok (.ctrlr d)
  else if a = 0x001#9 then .ok (.statr d)
  else if a = 0x002#9 then .ok (.klenr d)
  else if a = 0x004#9 then .ok (.pop d)
  else .error .refusedRead

/-- Decoding an access word as format `BUS` (R93, R102): the first of the two stages of R102. -/
def decodeBus (w : BusWord) : Except Reject Instr :=
  if busW w then decodeWrite (busA w) (busD w) else decodeRead (busA w) (busD w)

/-! ## Both formats -/

/-- Decoding an encoded word by its format (R102). -/
def decode : Encoded → Except Reject Instr
  | .cmd c => decodeCmd c
  | .bus w => decodeBus w

/-- What an access word the host issues runs as (R102): "first as `BUS`, then its `D` field as `CMD`". A write of `CTRL`
with a legal command byte runs as that command's row; with a reserved byte it stays the row `CMDW`. -/
def decodeAccess (w : BusWord) : Except Reject Instr :=
  match decodeBus w with
  | .ok (.cmdw c) =>
    match decodeCmd c with
    | .ok i => .ok i
    | .error _ => .ok (.cmdw c)
  | r => r

/-- The word of an instruction (R91, R93, R102). -/
def encode : Instr → Encoded
  | .b64e dk => .cmd (cmdByte .b64e dk)
  | .b64d dk => .cmd (cmdByte .b64d dk)
  | .xort dk => .cmd (cmdByte .xort dk)
  | .aenc dk => .cmd (cmdByte .aenc dk)
  | .adec dk => .cmd (cmdByte .adec dk)
  | .cmdw c => .bus (wr 0x000#9 c)
  | .ctrlr d => .bus (rdWith 0x000#9 d)
  | .statr d => .bus (rdWith 0x001#9 d)
  | .stclr m => .bus (wr 0x001#9 m)
  | .klenr d => .bus (rdWith 0x002#9 d)
  | .klenw n => .bus (wr 0x002#9 n)
  | .push v => .bus (wr 0x003#9 v)
  | .pop d => .bus (rdWith 0x004#9 d)
  | .fin x => .bus (wr 0x005#9 x)
  | .keyr i d => .bus (rdWith (keyAddr i) d)
  | .keyw i v => .bus (wr (keyAddr i) v)

/-- The access word by which the host presents an encoded word to the block: a command byte travels as the D field of a
`CTRL` write (R91, R103 `START`), an access word as itself. -/
def accessWord : Encoded → BusWord
  | .cmd c => wr 0x000#9 c
  | .bus w => w

/-! ## The table of R102 and the host's entry point -/

/-- A row of the opcode table: format, match and mask (R102). -/
inductive Row where
  | cmd (pattern mask : Byte)
  | bus (pattern mask : BusWord)
deriving DecidableEq, Repr

/-- Does an encoded word match a row (R102)? -/
def Row.matches : Row → Encoded → Bool
  | .cmd p m, .cmd c => c &&& m == p
  | .bus p m, .bus w => w &&& m == p
  | .cmd _ _, .bus _ => false
  | .bus _ _, .cmd _ => false

/-- The row of the opcode table an instruction stands for, its match and mask as R102 prints them. -/
def rowOf : Instr → Row
  | .b64e _ => .cmd 0x01#8 0xF7#8
  | .b64d _ => .cmd 0x02#8 0xF7#8
  | .xort _ => .cmd 0x03#8 0xF7#8
  | .aenc _ => .cmd 0x04#8 0xF7#8
  | .adec _ => .cmd 0x05#8 0xF7#8
  | .cmdw _ => .bus 0x20000#18 0x3FF00#18
  | .ctrlr _ => .bus 0x00000#18 0x3FF00#18
  | .statr _ => .bus 0x00100#18 0x3FF00#18
  | .stclr _ => .bus 0x20100#18 0x3FF00#18
  | .klenr _ => .bus 0x00200#18 0x3FF00#18
  | .klenw _ => .bus 0x20200#18 0x3FF00#18
  | .push _ => .bus 0x20300#18 0x3FF00#18
  | .pop _ => .bus 0x00400#18 0x3FF00#18
  | .fin _ => .bus 0x20500#18 0x3FF00#18
  | .keyr _ _ => .bus 0x10000#18 0x30000#18
  | .keyw _ _ => .bus 0x30000#18 0x30000#18

/-- A table word by its bit count: up to 8 bits is a command byte, more is an access word; bits above the format's
width belong to no encoding (log entry 7). -/
def encodedOfTable (nbits w : Nat) : Option Encoded :=
  if nbits ≤ 8 then
    if w < 2 ^ 8 then some (.cmd (BitVec.ofNat 8 w)) else none
  else
    if w < 2 ^ 18 then some (.bus (BitVec.ofNat 18 w)) else none

/-- The instruction the decoder reads from a word of the opcode table. -/
def decodeTableWord (nbits w : Nat) : Option Instr :=
  match encodedOfTable nbits w with
  | some e =>
    match decode e with
    | .ok i => some i
    | .error _ => none
  | none => none

end Sys2Proof
end

