-- ==== Sys2Proof/Config.lean ====
section
/-! DEFINITION. The parameters of the block (00_scope.md R8, R19) and the one value the spec leaves without a statement. -/

namespace Sys2Proof

/-- The open parameters of one machine (R8, R19): they are no state of the block and no step writes them.
`oqcap` is `OQCAP`, the capacity of the output queue in items. -/
structure Config where
  oqcap : Nat
deriving DecidableEq, Repr

/-- The configuration R8 gives as the default: `OQCAP` = 16. -/
def Config.standard : Config := { oqcap := 16 }

/-- The constraint R8 puts on `OQCAP`: at least 4. -/
abbrev Config.Valid (c : Config) : Prop := 4 ≤ c.oqcap

/-- `KMAX`, the largest key length (R8). -/
def Config.kmax : Nat := 255

/-- FREE VALUE (log entry 8). `EK(i)` of R164 under `DKR = 1` is stated for `i` = 0, 1, 2 only; what the cipher reads
at a larger index, which no run reaches (R45 h), is left open: nothing constrains this function. -/
opaque Config.freeKeyByte : Byte → Byte

end Sys2Proof
end

