-- ==== Sys2Proof/Machine/State.lean ====
section
/-! DEFINITION. The state of one ASC instance (10_state.md R20), its value after reset (R46), and the ways a step can
stop. -/

namespace Sys2Proof.Machine

/-- `STATE`, the sequencer (R21): `IDLE` = 0, `RUN` = 1, `DRAIN` = 2. The value 3, which R21 gives no meaning, cannot be
written (log entry 9). -/
inductive Phase where
  | idle
  | run
  | drain
deriving DecidableEq, Repr

/-- A list of index and byte pairs, indices strictly rising, no entry equal to what an unlisted index reads as: the key
store `KEY[0..255]` (R32, R43), the block's only indexed storage. -/
abbrev Memory := List Host.Cell

/-- What can come from outside the block: one access, named by its `BUS` word (R61, R93), or reset (R240). -/
inductive HostEvent where
  | access (w : BusWord)
  | reset
deriving DecidableEq, Repr

/-- The causes of `ProtocolError` (R216). They are names of the rules and are recorded nowhere in the state (R213). -/
inductive Cause where
  | p1   -- a CTRL write while busy
  | p2   -- a reserved command byte
  | p3   -- a KLEN or KEY write while busy
  | p4   -- a DIN write without IN_RDY
  | p5   -- a FIN write without IN_RDY
  | p6   -- a DOUT read with OQ empty
  | p7   -- an access that matches no row
deriving DecidableEq, Repr

/-- The state of the block: R20's fourteen pieces, and three fields of the model's own (`cfg`, `rdata`, `host`). -/
structure State where
  /-- The machine's parameters (R19): the model's own field, written by no step (log entry 2). -/
  cfg : Config
  /-- `STATE` (R21). -/
  phase : Phase
  /-- `OPR`, the `OP` field of the last accepted command (R22). -/
  opr : BitVec 3
  /-- `DKR`, the `DK` field of the last accepted command (R22). -/
  dkr : Bool
  /-- `IA`, sticky: a command failed with `InvalidArgument` (R34). -/
  ia : Bool
  /-- `PERR`, sticky: an access was refused (R34). -/
  perr : Bool
  /-- `EBUF`, the encoder's incomplete group (R25). -/
  ebuf : BitVec 16
  /-- `ECNT`, how many bytes of it are held (R26). -/
  ecnt : BitVec 2
  /-- `DACC`, the decoder's residue (R29). -/
  dacc : BitVec 6
  /-- `DNB`, how many bits of it are held (R29). -/
  dnb : BitVec 3
  /-- `DSTOP`, padding seen (R30). -/
  dstop : Bool
  /-- `KIDX`, the cyclic key index (R31). -/
  kidx : Byte
  /-- `KLEN`, the key length (R32, R39). -/
  klen : Byte
  /-- `KEY[0..255]` (R32, R43). -/
  key : Memory
  /-- `OQ`, the output queue, oldest item first (R33). -/
  oq : List Byte
  /-- The byte the last access returned, none after a write (R61): the model's own field (log entry 3). -/
  rdata : Option Byte
  /-- What the host has yet to issue, oldest first (R18, R68, R240): the model's own field (log entry 1). -/
  host : List HostEvent
deriving DecidableEq, Repr

/-- The reasons a step could stop with a fault: none. Every access from every state has a defined next state (R61, R193,
and the end of part 2 of 93_implementation_defined.md), so the type has no constructor. -/
inductive Fault where
deriving DecidableEq, Repr

/-- The reasons a step could be refused. -/
inductive Refusal where
  /-- An instruction without a meaning: raised by no arm of this model, since all sixteen rows are modelled (safe). -/
  | notModelled (mnemonic : String)
deriving DecidableEq, Repr

/-- The machine right after reset: every register zero, `STATE` = `IDLE`, `OQ` empty, no key (R46, R240). The parameter
has the default R8 gives; nothing has been read and the host has issued nothing yet (log entries 1, 2, 3). -/
def State.reset : State where
  cfg := Config.standard
  phase := .idle
  opr := 0
  dkr := false
  ia := false
  perr := false
  ebuf := 0x0000
  ecnt := 0
  dacc := 0
  dnb := 0
  dstop := false
  kidx := 0
  klen := 0x00
  key := []
  oq := []
  rdata := none
  host := []

end Sys2Proof.Machine
end

