-- ==== Sys2Proof/Machine/Ops.lean ====
section
/-! DEFINITION. The named operations over the state: the key store, the output queue, raising and acknowledging the two
conditions, reset, the clearing step and acceptance of a command. -/

namespace Sys2Proof.Machine

/-! ## The key store (R32, R43) -/

/-- What an index that is not listed holds: `0x00`, the reset contents (R46). -/
def Memory.unlisted : Byte := 0x00

/-- The byte at an index. -/
def Memory.read : Memory → Nat → Byte
  | [], _ => Memory.unlisted
  | (j, v) :: rest, i => if j = i then v else Memory.read rest i

/-- The store without any entry for an index. -/
def Memory.erase (m : Memory) (i : Nat) : Memory := m.filter (fun c => c.1 != i)

/-- The store with an entry put before the first larger index. -/
def Memory.insert : Memory → Nat → Byte → Memory
  | [], i, v => [(i, v)]
  | (j, w) :: rest, i, v => if i < j then (i, v) :: (j, w) :: rest else (j, w) :: Memory.insert rest i v

/-- The store with a byte written at an index; writing what an unlisted index holds removes the entry. -/
def Memory.write (m : Memory) (i : Nat) (v : Byte) : Memory :=
  if v = Memory.unlisted then Memory.erase m i else Memory.insert (Memory.erase m i) i v

/-- Indices strictly rising, each larger than `lo` where one is given, below 256, and no entry that holds `0x00`. -/
def Memory.wfFrom : Option Nat → Memory → Bool
  | _, [] => true
  | lo, (i, v) :: rest =>
    (match lo with
      | some l => decide (l < i)
      | none => true)
    && decide (i < 256) && decide (v ≠ Memory.unlisted) && Memory.wfFrom (some i) rest

/-- The canonical form of the key store. -/
def Memory.wf (m : Memory) : Bool := Memory.wfFrom none m

/-- `KEY[i]` (R43). -/
def readKey (i : Byte) (s : State) : Byte := Memory.read s.key i.toNat

/-- `KEY[i] <- v` (R43). -/
def writeKey (i v : Byte) (s : State) : State := { s with key := Memory.write s.key i.toNat v }

/-! ## The output queue and the returned byte -/

/-- `emit(v)`: append an item at the tail of `OQ` (R13, R33). -/
def emit (v : Byte) (s : State) : State := { s with oq := s.oq ++ [v] }

/-- `emit` of several items in order. -/
def emitAll (vs : List Byte) (s : State) : State := { s with oq := s.oq ++ vs }

/-- A read returns a byte to the host (R61). -/
def respond (v : Byte) (s : State) : State := { s with rdata := some v }

/-- An access begins: it leaves the host's stream and has returned nothing yet (R61, R68). -/
def beginAccess (rest : List HostEvent) (s : State) : State := { s with host := rest, rdata := none }

/-! ## Raising the two conditions, and acknowledging them -/

/-- `raise InvalidArgument` (R212): the block's trap entry. `IA` is set and nothing else changes. -/
def raiseInvalidArgument (s : State) : State := { s with ia := true }

/-- `raise ProtocolError(cause)` (R216): `PERR` is set and nothing else changes; the cause is not kept (R213). -/
def raiseProtocolError (_cause : Cause) (s : State) : State := { s with perr := true }

/-- A refused read: the condition is raised and `0x00` is returned (R216). -/
def refuseRead (cause : Cause) (s : State) : State := respond 0x00 (raiseProtocolError cause s)

/-- The host acknowledges conditions by a `STATUS` write (R38, R218): bit 4 clears `IA`, bit 5 clears `PERR`. -/
def acknowledge (m : Byte) (s : State) : State :=
  { s with ia := s.ia && !m.getLsbD 4, perr := s.perr && !m.getLsbD 5 }

/-- An access word that matches no `BUS` row (R102): cause P7, with `0x00` returned for a read (R40 to R42, R44). -/
def refuseAccess (r : Reject) (s : State) : State :=
  match r with
  | .refusedRead => refuseRead .p7 s
  | .refusedWrite => raiseProtocolError .p7 s
  | .reservedCommand => raiseProtocolError .p2 s

/-! ## Reset, the clearing step, acceptance -/

/-- `Reset()` (R240): every piece of the block's state at the value of R46. The parameters and what the host has yet to
issue are no state of the block and stay. -/
def hardReset (s : State) : State := { State.reset with cfg := s.cfg, host := s.host }

/-- `Clear()` (R181): every datapath register to zero, at an accepted command and not when one completes (R23, R148; log
entry 11). -/
def clearDatapath (s : State) : State :=
  { s with ebuf := 0x0000, ecnt := 0, dacc := 0, dnb := 0, dstop := false, kidx := 0 }

/-- `Accept(op, dk)` (R180): latch the command, clear the datapath, enter `RUN`. -/
def accept (op : Op) (dk : Bool) (s : State) : State :=
  { clearDatapath { s with opr := opCode op, dkr := dk } with phase := .run }

end Sys2Proof.Machine
end

