-- ==== Sys2Proof/Machine/Operands.lean ====
section
/-! DEFINITION. Operand forms: the Base64 alphabet and classifier (30_encoding.md R95 to R97), the assembly of indices and
bytes (R100, R101, R123), and the effective key (42_xor_cipher.md R164, 30_encoding.md R108). -/

namespace Sys2Proof.Machine

/-! ## The alphabet -/

/-- `alpha`: the character code of a 6-bit index, in the closed form of R95. -/
def alpha (i : BitVec 6) : Byte :=
  let x : Byte := i.setWidth 8
  if x ≤ 25#8 then 0x41#8 + x
  else if x ≤ 51#8 then 0x61#8 + (x - 26#8)
  else if x ≤ 61#8 then 0x30#8 + (x - 52#8)
  else if x = 62#8 then 0x2B#8
  else 0x2F#8

/-- The padding character `=` (R97). -/
def padChar : Byte := 0x3D

/-- The three classes of input character (R96). -/
inductive CharClass where
  | sym (v : BitVec 6)
  | pad
  | skip
deriving DecidableEq, Repr

/-- `cls`: the class of a character code, by the ranges of R96. -/
def cls (c : Byte) : CharClass :=
  if c = 0x2B#8 then .sym 62#6
  else if c = 0x2F#8 then .sym 63#6
  else if 0x30#8 ≤ c ∧ c ≤ 0x39#8 then .sym ((52#8 + (c - 0x30#8)).setWidth 6)
  else if c = 0x3D#8 then .pad
  else if 0x41#8 ≤ c ∧ c ≤ 0x5A#8 then .sym ((c - 0x41#8).setWidth 6)
  else if 0x61#8 ≤ c ∧ c ≤ 0x7A#8 then .sym ((26#8 + (c - 0x61#8)).setWidth 6)
  else .skip

/-! ## Assembly of the encoder's indices -/

/-- `enc4(w)`: the four characters of a 24-bit group, most significant six bits first (R100, R123). -/
def enc4 (w : BitVec 24) : List Byte :=
  [alpha (w.extractLsb' 18 6), alpha (w.extractLsb' 12 6), alpha (w.extractLsb' 6 6), alpha (w.extractLsb' 0 6)]

/-- The four characters of a full group (R120). -/
def encFull (b0 b1 b2 : Byte) : List Byte := enc4 (b0 ++ b1 ++ b2)

/-- The padded group of one leftover byte: two data characters and two `=` (R100, R120). -/
def encOne (b0 : Byte) : List Byte := (enc4 (b0 ++ 0x00#8 ++ 0x00#8)).take 2 ++ [padChar, padChar]

/-- The padded group of two leftover bytes: three data characters and one `=` (R100, R120). -/
def encTwo (b0 b1 : Byte) : List Byte := (enc4 (b0 ++ b1 ++ 0x00#8)).take 3 ++ [padChar]

/-! ## Assembly of the decoder's bytes -/

/-- The top 8 of the `n` live bits of the 12-bit temporary, `t[n-1 : n-8]` (R146). -/
def topByte (t : BitVec 12) (n : Nat) : Byte := t.extractLsb' (n - 8) 8

/-- The low `n` bits of the temporary, `zext_6(t[n-1 : 0])` (R146). -/
def lowBits (t : BitVec 12) (n : Nat) : BitVec 6 := BitVec.ofNat 6 (t.toNat % 2 ^ n)

/-! ## The effective key -/

/-- `keyed(op)`: true for `XORT`, `AENC`, `ADEC` (R92). -/
def keyed : Op → Bool
  | .b64e => false
  | .b64d => false
  | .xort => true
  | .aenc => true
  | .adec => true

/-- `DEFAULT_KEY`, the three bytes of `key` (R108). -/
def defaultKey : List Byte := [0x6B, 0x65, 0x79]

/-- `EKLEN`, the length of the effective key under a `DK` bit (R164). -/
def eklen (dk : Bool) (s : State) : Nat := if dk then 3 else s.klen.toNat

/-- `EK(i)`, a byte of the effective key under a `DK` bit (R164). Past the three bytes of the default key, which no run
reaches, the value is free (log entry 8). -/
def ek (dk : Bool) (i : Byte) (s : State) : Byte :=
  if dk then
    if i = 0#8 then 0x6B#8
    else if i = 1#8 then 0x65#8
    else if i = 2#8 then 0x79#8
    else Config.freeKeyByte i
  else readKey i s

/-- The effective key as a sequence, `EK(0), ..., EK(EKLEN - 1)` (R32, R164). -/
def effectiveKey (dk : Bool) (s : State) : List Byte :=
  if dk then defaultKey else (List.range s.klen.toNat).map (Memory.read s.key)

end Sys2Proof.Machine
end

