-- ==== Sys2Proof/Machine/Datapath.lean ====
section
/-! DEFINITION. The data steps of the sub-units: `EncStep`, `EncFlush` (40_base64_encoder.md), `DecStep`
(41_base64_decoder.md), `XorStep` (42_xor_cipher.md), and their routing `Item` and `Flush`
(43_composition_controller.md). -/

namespace Sys2Proof.Machine

/-- `EBUF[15:8]`, the first byte of the incomplete group (R25). -/
def ebufHi (s : State) : Byte := s.ebuf.extractLsb' 8 8

/-- `EBUF[7:0]`, its second byte (R25). -/
def ebufLo (s : State) : Byte := s.ebuf.extractLsb' 0 8

/-- `EncStep(x)` (R124). -/
def encStep (x : Byte) (s : State) : State :=
  if s.ecnt = 0#2 then { s with ebuf := x ++ ebufLo s, ecnt := 1#2 }
  else if s.ecnt = 1#2 then { s with ebuf := ebufHi s ++ x, ecnt := 2#2 }
  else { emitAll (enc4 (s.ebuf ++ x)) s with ecnt := 0#2 }

/-- `EncFlush()` (R126). -/
def encFlush (s : State) : State :=
  if s.ecnt = 1#2 then { emitAll (encOne (ebufHi s)) s with ecnt := 0#2 }
  else if s.ecnt = 2#2 then { emitAll (encTwo (ebufHi s) (ebufLo s)) s with ecnt := 0#2 }
  else { s with ecnt := 0#2 }

/-- The step of the decoder on a symbol of value `v` (R146): the 12-bit temporary `DACC ++ v` holds `DNB + 6` live bits. -/
def decSymbol (v : BitVec 6) (s : State) : Option Byte × State :=
  let t : BitVec 12 := s.dacc ++ v
  let n := s.dnb.toNat + 6
  if 8 ≤ n then
    (some (topByte t n), { s with dacc := lowBits t (n - 8), dnb := BitVec.ofNat 3 (n - 8) })
  else (none, { s with dacc := v, dnb := BitVec.ofNat 3 n })

/-- `DecStep(c)` (R146): a byte or none, and the decoder's new state. -/
def decStep (c : Byte) (s : State) : Option Byte × State :=
  if s.dstop then (none, s)
  else
    match cls c with
    | .pad => (none, { s with dstop := true })
    | .skip => (none, s)
    | .sym v => decSymbol v s

/-- `XorStep(b)` (R165): the byte XORed with `EK(KIDX)`, and the cyclic index advanced with wrap at `EKLEN`. -/
def xorStep (b : Byte) (s : State) : Byte × State :=
  (b ^^^ ek s.dkr s.kidx s,
   { s with kidx := if s.kidx.toNat + 1 = eklen s.dkr s then 0#8 else s.kidx + 1#8 })

/-- `emit` of a byte or of nothing (R142). -/
def emitSome (y : Option Byte) (s : State) : State :=
  match y with
  | some b => emit b s
  | none => s

/-- The cipher on a decoded byte, then `emit`; nothing when nothing was decoded (R183). -/
def cipherSome (y : Option Byte) (s : State) : State :=
  match y with
  | some b => emit (xorStep b s).1 (xorStep b s).2
  | none => s

/-- `Item(v)` (R188). `OPR` selects the sub-units; where it selects none, in states no run reaches, nothing is done
(log entry 9). -/
def item (v : Byte) (s : State) : State :=
  match opOfCode s.opr with
  | some .b64e => encStep v s
  | some .b64d => emitSome (decStep v s).1 (decStep v s).2
  | some .xort => emit (xorStep v s).1 (xorStep v s).2
  | some .aenc => encStep (xorStep v s).1 (xorStep v s).2
  | some .adec => cipherSome (decStep v s).1 (decStep v s).2
  | none => s

/-- `Flush()` (R189). -/
def flush (s : State) : State :=
  match opOfCode s.opr with
  | some .b64e => encFlush s
  | some .aenc => encFlush s
  | some .b64d => s
  | some .xort => s
  | some .adec => s
  | none => s

end Sys2Proof.Machine
end

