-- ==== Sys2Proof/Machine/Flags.lean ====
section
/-! DEFINITION. The status signals and the two bytes the host reads them in (10_state.md R35, R37, R38). -/

namespace Sys2Proof.Machine

/-- `BUSY = (STATE != IDLE)` (R35). -/
def busy (s : State) : Bool := s.phase != .idle

/-- `OUT_VLD = (len(OQ) >= 1)` (R35). -/
def outVld (s : State) : Bool := decide (1 ≤ s.oq.length)

/-- `IN_RDY = (STATE = RUN) and (OQCAP - len(OQ) >= 4)` (R35). -/
def inRdy (s : State) : Bool := s.phase == .run && decide (4 ≤ s.cfg.oqcap - s.oq.length)

/-- `STATUS` as read (R38): bit 7 zero, `PADSEEN`, `PERR`, `IA`, bit 3 zero, `OUT_VLD`, `IN_RDY`, `BUSY`. -/
def statusByte (s : State) : Byte :=
  0#1 ++ BitVec.ofBool s.dstop ++ BitVec.ofBool s.perr ++ BitVec.ofBool s.ia ++ 0#1 ++ BitVec.ofBool (outVld s)
    ++ BitVec.ofBool (inRdy s) ++ BitVec.ofBool (busy s)

/-- `CTRL` as read (R37): `0b0000 ++ DKR ++ OPR`. -/
def ctrlByte (s : State) : Byte := 0b0000#4 ++ BitVec.ofBool s.dkr ++ s.opr

end Sys2Proof.Machine
end

