-- ==== Sys2Proof/Machine/Commands.lean ====
section
/-! DEFINITION. The command family: the five operations of format `CMD` and the access `CMDW` that carries them
(43_composition_controller.md R178 to R181). -/

namespace Sys2Proof.Machine

/-- The last two tests of `CmdWrite` and acceptance (R178, R179, R180): a keyed operation with an empty effective key
raises `InvalidArgument`, anything else is accepted. -/
def checkKeyAndAccept (op : Op) (dk : Bool) (s : State) : State :=
  if keyed op && !dk && s.klen == 0x00#8 then raiseInvalidArgument s else accept op dk s

/-- `START op` with its `DK` bit: `CmdWrite` of a legal command byte (R178). -/
def startCommand (op : Op) (dk : Bool) (s : State) : State :=
  if busy s then raiseProtocolError .p1 s else checkKeyAndAccept op dk s

/-- `CmdWrite(c)` (R178): busy, then reserved, then the key check, then acceptance. -/
def commandWrite (c : Byte) (s : State) : State :=
  if busy s then raiseProtocolError .p1 s
  else
    match cmdOperation c with
    | none => raiseProtocolError .p2 s
    | some op => checkKeyAndAccept op (cmdDk c) s

/-- `B64E` (R122): accepted in `IDLE` always. -/
def execB64e (dk : Bool) (s : State) : Host.Outcome State Fault Refusal := .next (startCommand .b64e dk s)

/-- `B64D` (R142): accepted in `IDLE` always. -/
def execB64d (dk : Bool) (s : State) : Host.Outcome State Fault Refusal := .next (startCommand .b64d dk s)

/-- `XORT` (R162, R163). -/
def execXort (dk : Bool) (s : State) : Host.Outcome State Fault Refusal := .next (startCommand .xort dk s)

/-- `AENC` (R182). -/
def execAenc (dk : Bool) (s : State) : Host.Outcome State Fault Refusal := .next (startCommand .aenc dk s)

/-- `ADEC` (R183). -/
def execAdec (dk : Bool) (s : State) : Host.Outcome State Fault Refusal := .next (startCommand .adec dk s)

/-- `CMDW`, `WR(0x000, c)` (R178). -/
def execCmdw (c : Byte) (s : State) : Host.Outcome State Fault Refusal := .next (commandWrite c s)

end Sys2Proof.Machine
end

