-- ==== Sys2Proof/Machine/Registers.lean ====
section
/-! DEFINITION. The register family: `CTRL` and `STATUS` as read, the `STATUS` write, `KLEN` and the key store
(10_state.md R37, R38, R39, R43). -/

namespace Sys2Proof.Machine

/-- `CTRLR`, `RD(0x000)` (R37): no side effect. -/
def execCtrlr (_d : Byte) (s : State) : Host.Outcome State Fault Refusal := .next (respond (ctrlByte s) s)

/-- `STATR`, `RD(0x001)` (R38): no side effect. -/
def execStatr (_d : Byte) (s : State) : Host.Outcome State Fault Refusal := .next (respond (statusByte s) s)

/-- `STCLR`, `WR(0x001, m)` (R38): accepted in every `STATE`. -/
def execStclr (m : Byte) (s : State) : Host.Outcome State Fault Refusal := .next (acknowledge m s)

/-- `KLENR`, `RD(0x002)` (R39): no side effect. -/
def execKlenr (_d : Byte) (s : State) : Host.Outcome State Fault Refusal := .next (respond s.klen s)

/-- `KLENW`, `WR(0x002, n)` (R39): accepted in `IDLE`, cause P3 while busy. -/
def execKlenw (n : Byte) (s : State) : Host.Outcome State Fault Refusal :=
  .next (if busy s then raiseProtocolError .p3 s else { s with klen := n })

/-- `KEYR`, `RD(0x100 + i)` (R43): no side effect. -/
def execKeyr (i _d : Byte) (s : State) : Host.Outcome State Fault Refusal := .next (respond (readKey i s) s)

/-- `KEYW`, `WR(0x100 + i, v)` (R43): accepted in `IDLE`, cause P3 while busy. -/
def execKeyw (i v : Byte) (s : State) : Host.Outcome State Fault Refusal :=
  .next (if busy s then raiseProtocolError .p3 s else writeKey i v s)

end Sys2Proof.Machine
end

