-- ==== Sys2Proof/Machine/Streams.lean ====
section
/-! DEFINITION. The stream family: `PUSH` (`DIN`), `FIN` and `POP` (`DOUT`) (43_composition_controller.md R186, R190, R192). -/

namespace Sys2Proof.Machine

/-- `DinWrite(v)` (R186). -/
def dinWrite (v : Byte) (s : State) : State :=
  if inRdy s then item v s else raiseProtocolError .p4 s

/-- What `FIN` leaves `STATE` at (R190): `IDLE` when `OQ` is empty, else `DRAIN`. -/
def endInput (s : State) : State := { s with phase := if s.oq = [] then .idle else .drain }

/-- `FinWrite(x)` (R190): the value is ignored. `DACC`, `DNB`, `KIDX` and `EBUF` keep their final values (R148, R23; log
entry 11). -/
def finWrite (_x : Byte) (s : State) : State :=
  if inRdy s then endInput (flush s) else raiseProtocolError .p5 s

/-- The head of `OQ` is gone (R192): in `DRAIN`, the read that empties `OQ` completes the command,
and the datapath registers keep their final values (R148, R23; log entry 11). -/
def dropHead (rest : List Byte) (s : State) : State :=
  { s with oq := rest, phase := if s.phase = .drain ∧ rest = [] then .idle else s.phase }

/-- `DoutRead()` (R192). -/
def doutRead (s : State) : State :=
  match s.oq with
  | [] => refuseRead .p6 s
  | y :: rest => respond y (dropHead rest s)

/-- `PUSH`, `WR(0x003, v)` (R186). -/
def execPush (v : Byte) (s : State) : Host.Outcome State Fault Refusal := .next (dinWrite v s)

/-- `POP`, `RD(0x004)` (R192). -/
def execPop (_d : Byte) (s : State) : Host.Outcome State Fault Refusal := .next (doutRead s)

/-- `FIN`, `WR(0x005, x)` (R190). -/
def execFin (x : Byte) (s : State) : Host.Outcome State Fault Refusal := .next (finWrite x s)

end Sys2Proof.Machine
end

