-- ==== Sys2Proof/Machine/Dispatch.lean ====
section
/-! DEFINITION. What each instruction does: one arm per row of spec/opcode_table.json. -/

namespace Sys2Proof.Machine

def exec (i : Instr) (s : State) : Host.Outcome State Fault Refusal :=
  match i with
  | .b64e dk => Sys2Proof.Machine.execB64e dk s
  | .b64d dk => Sys2Proof.Machine.execB64d dk s
  | .xort dk => Sys2Proof.Machine.execXort dk s
  | .aenc dk => Sys2Proof.Machine.execAenc dk s
  | .adec dk => Sys2Proof.Machine.execAdec dk s
  | .cmdw c => Sys2Proof.Machine.execCmdw c s
  | .ctrlr d => Sys2Proof.Machine.execCtrlr d s
  | .statr d => Sys2Proof.Machine.execStatr d s
  | .stclr m => Sys2Proof.Machine.execStclr m s
  | .klenr d => Sys2Proof.Machine.execKlenr d s
  | .klenw n => Sys2Proof.Machine.execKlenw n s
  | .push v => Sys2Proof.Machine.execPush v s
  | .pop d => Sys2Proof.Machine.execPop d s
  | .fin x => Sys2Proof.Machine.execFin x s
  | .keyr k d => Sys2Proof.Machine.execKeyr k d s
  | .keyw k v => Sys2Proof.Machine.execKeyw k v s

end Sys2Proof.Machine
end

