-- ==== Sys2Proof/Machine/Step.lean ====
section
/-! DEFINITION. One step of the block: the oldest event the host has yet to issue (00_scope.md R18, 20_memory.md R61, R68). -/

namespace Sys2Proof.Machine

/-- One step. With nothing pending the block holds its state (R18, R226). A reset event resets (R240). An access leaves
the stream, is decoded in the two stages of R102, and runs; a word of no row is a refused access (R216). -/
def step (s : State) : Host.Outcome State Fault Refusal :=
  match s.host with
  | [] => .next s
  | .reset :: rest => .next (hardReset { s with host := rest })
  | .access w :: rest =>
    match decodeAccess w with
    | .ok i => exec i (beginAccess rest s)
    | .error r => .next (refuseAccess r (beginAccess rest s))

/-- The access word of a table word: a command byte travels as a `CTRL` write (log entry 6). -/
def fetchWord (nbits w : Nat) : BusWord :=
  if nbits ≤ 8 then accessWord (.cmd (BitVec.ofNat 8 w)) else accessWord (.bus (BitVec.ofNat 18 w))

/-- The state whose next step runs the instruction of a table word: the access stands first in what the host issues. -/
def State.withFetchWord (s : State) (nbits w : Nat) : State :=
  { s with host := .access (fetchWord nbits w) :: s.host }

end Sys2Proof.Machine
end

