-- ==== Sys2Proof/Machine/Driver.lean ====
section
/-! DEFINITION. Host programs (30_encoding.md R103, R105): the pseudo-instructions and the canonical driver, run on the
machine one access at a time, and the observation of a command (20_memory.md R62). -/

namespace Sys2Proof.Machine

/-- One access of a host that issues nothing else meanwhile: the machine's own step on that access. -/
def issue (w : BusWord) (s : State) : State :=
  match step { s with host := [.access w] } with
  | .next t => t
  | .fault _ => s
  | .refused _ => s

/-- Accesses issued one after the other (R68). -/
def issueAll : List BusWord → State → State
  | [], s => s
  | w :: ws, s => issueAll ws (issue w s)

/-- What accesses issued one after the other return: a byte for a read, none for a write (R61). It is all the host ever
sees of the block (R47). -/
def returnedBytes : List BusWord → State → List (Option Byte)
  | [], _ => []
  | w :: ws, s => (issue w s).rdata :: returnedBytes ws (issue w s)

/-! ## Pseudo-instructions with a fixed expansion (R103) -/

/-- `START op` or `START op, DK`. -/
def startWord (op : Op) (dk : Bool) : BusWord := wr 0x000#9 (cmdByte op dk)

/-- `PUSH v`. -/
def pushWord (v : Byte) : BusWord := wr 0x003#9 v

/-- `PUSHS "text"`: one `PUSH` per character code. -/
def pushWords (text : List Byte) : List BusWord := text.map pushWord

/-- `FIN`. -/
def finWord : BusWord := wr 0x005#9 0x00#8

/-- `POP`. -/
def popWord : BusWord := rd 0x004#9

/-- `STAT`. -/
def statWord : BusWord := rd 0x001#9

/-- `CLRF m`. -/
def clrfWord (m : Byte) : BusWord := wr 0x001#9 m

/-- The key bytes of `LDKEY`, from index `i` on. -/
def keyWords : Nat → List Byte → List BusWord
  | _, [] => []
  | i, b :: bs => wr (keyAddr (BitVec.ofNat 8 i)) b :: keyWords (i + 1) bs

/-- `LDKEY "k"`: the bytes in order, then the length (`len(k) <= 255`). -/
def ldkeyWords (k : List Byte) : List BusWord := keyWords 0 k ++ [wr 0x002#9 (BitVec.ofNat 8 k.length)]

/-! ## What the host sees of a command (R62) -/

/-- Does the word read `DOUT`, the output side of R62? -/
def isPop (w : BusWord) : Bool := !busW w && busA w == 0x004#9

/-- Does the word write `DIN`, the input side of R62? -/
def isPush (w : BusWord) : Bool := busW w && busA w == 0x003#9

/-- The input item an access delivers: the value of an accepted `DIN` write (R62). -/
def acceptedInput (w : BusWord) (s : State) : List Byte :=
  if isPush w && inRdy s then [busD w] else []

/-- The output item an access returns: the byte a `DOUT` read that found `OQ` non-empty returned (R62). -/
def returnedOutput (w : BusWord) (s : State) : List Byte :=
  if isPop w && outVld s then (issue w s).rdata.toList else []

/-- A command observed from a busy state to its end (R62, R206): where the accesses bring `STATE` to `IDLE` with the last
one and not before, the input and the output sequence they carry; none where they do not. -/
def observe : List BusWord → State → Option (List Byte × List Byte)
  | [], _ => none
  | w :: ws, s =>
    if busy (issue w s) then
      match observe ws (issue w s) with
      | some (ins, outs) => some (acceptedInput w s ++ ins, returnedOutput w s ++ outs)
      | none => none
    else if ws = [] then some (acceptedInput w s, returnedOutput w s)
    else none

/-! ## The canonical driver (R105) -/

/-- The byte `STAT` returns. -/
def polledStatus (s : State) : Byte := (issue statWord s).rdata.getD 0x00

/-- `POP` repeated while `STAT` returns a byte that satisfies `more`, at most `fuel` times; with the bytes returned. -/
def popWhile (more : Byte → Bool) : Nat → State → State × List Byte
  | 0, s => (issue statWord s, [])
  | fuel + 1, s =>
    if more (polledStatus s) then
      let t := issue popWord (issue statWord s)
      let (u, outs) := popWhile more fuel t
      (u, t.rdata.toList ++ outs)
    else (issue statWord s, [])

/-- `IN_RDY` (bit 1) clear and `OUT_VLD` (bit 2) set: the loop condition of `PUSHW` and `FINW` (R103). -/
def mustMakeRoom (status : Byte) : Bool := !status.getLsbD 1 && status.getLsbD 2

/-- `OUT_VLD` set: the loop condition of `POPALL` (R103). -/
def hasOutput (status : Byte) : Bool := status.getLsbD 2

/-- `PUSHW v` and `FINW` (R103): make room, then issue the word. A loop makes at most one `POP` per queued item. -/
def issueWhenReady (w : BusWord) (s : State) : State × List Byte :=
  let (t, outs) := popWhile mustMakeRoom s.oq.length s
  (issue w t, outs)

/-- `PUSHW` of every item in order (R105). -/
def pushAllWhenReady : List Byte → State → State × List Byte
  | [], s => (s, [])
  | v :: vs, s =>
    let (t, outs) := issueWhenReady (pushWord v) s
    let (u, outs') := pushAllWhenReady vs t
    (u, outs ++ outs')

/-- `POPALL` (R103). -/
def popAll (s : State) : State × List Byte := popWhile hasOutput s.oq.length s

/-- The canonical host program after `LDKEY` (R105): `START`; `STAT`, stop if `IA`; `PUSHW` each item; `FINW`; `POPALL`. It
ends with the bytes its `POP`s returned, or with none of them when `IA` stopped it. -/
def drive (op : Op) (dk : Bool) (input : List Byte) (s : State) : State × Option (List Byte) :=
  let s1 := issue (startWord op dk) s
  let s2 := issue statWord s1
  if (polledStatus s1).getLsbD 4 then (s2, none)
  else
    let (s3, o1) := pushAllWhenReady input s2
    let (s4, o2) := issueWhenReady finWord s3
    let (s5, o3) := popAll s4
    (s5, some (o1 ++ o2 ++ o3))

/-- The canonical driver (R105): `LDKEY` when a key is needed, then the command. -/
def canonicalDriver (op : Op) (dk : Bool) (k input : List Byte) (s : State) : State × Option (List Byte) :=
  drive op dk input (if keyed op && !dk then issueAll (ldkeyWords k) s else s)

end Sys2Proof.Machine
end

