-- ==== Sys2Proof/Machine/Functions.lean ====
section
/-! DEFINITION. The function level (00_scope.md R10, R15): the five operations as total functions over byte sequences, as
the spec's own pseudocode gives them, independent of the datapath steps. -/

namespace Sys2Proof.Machine

/-- A result of the function level: a sequence, or the token `InvalidArgument` (R15). -/
inductive Result where
  | seq (bs : List Byte)
  | invalidArgument
deriving DecidableEq, Repr

/-- `b64enc` (R120): every full group of three, then the padded group of one or two leftover bytes. -/
def b64enc : List Byte → List Byte
  | b0 :: b1 :: b2 :: rest => encFull b0 b1 b2 ++ b64enc rest
  | [b0, b1] => encTwo b0 b1
  | [b0] => encOne b0
  | [] => []

/-- The loop of `b64dec` (R140) with the rolling buffer `acc` of `n` live bits, on unsigned integers. -/
def b64decFrom (acc n : Nat) : List Byte → List Byte
  | [] => []
  | c :: t =>
    match cls c with
    | .pad => []
    | .skip => b64decFrom acc n t
    | .sym v =>
      let acc' := acc * 2 ^ 6 + v.toNat
      let n' := n + 6
      if 8 ≤ n' then
        BitVec.ofNat 8 (acc' / 2 ^ (n' - 8)) :: b64decFrom (acc' % 2 ^ (n' - 8)) (n' - 8) t
      else b64decFrom acc' n' t

/-- `b64dec` (R140). -/
def b64dec (t : List Byte) : List Byte := b64decFrom 0 0 t

/-- The values of the valid symbols before the first `=`, in order (R101, R141 b). -/
def symbols : List Byte → List (BitVec 6)
  | [] => []
  | c :: t =>
    match cls c with
    | .pad => []
    | .skip => symbols t
    | .sym v => v :: symbols t

/-- The loop of `xort` (R160) from position `i` on: byte `i` XOR key byte `i mod len(k)`. -/
def xortFrom (k : List Byte) (i : Nat) : List Byte → List Byte
  | [] => []
  | b :: bs => (b ^^^ k.getD (i % k.length) 0x00) :: xortFrom k (i + 1) bs

/-- `xort` (R160): the empty key is refused first, whatever the input is. -/
def xort (bs k : List Byte) : Result :=
  if k = [] then .invalidArgument else .seq (xortFrom k 0 bs)

/-- `aenc` (R175): cipher, then encoder. -/
def aenc (p k : List Byte) : Result :=
  if k = [] then .invalidArgument
  else
    match xort p k with
    | .seq x => .seq (b64enc x)
    | .invalidArgument => .invalidArgument

/-- `adec` (R176): decoder, then cipher. -/
def adec (s k : List Byte) : Result :=
  if k = [] then .invalidArgument else xort (b64dec s) k

/-- The function of an operation on its input sequence and effective key (R3). -/
def operation (op : Op) (input k : List Byte) : Result :=
  match op with
  | .b64e => .seq (b64enc input)
  | .b64d => .seq (b64dec input)
  | .xort => xort input k
  | .aenc => aenc input k
  | .adec => adec input k

end Sys2Proof.Machine
end

