-- ==== Sys2Proof/Machine/Runs.lean ====
section
/-! DEFINITION. A data step applied to every item of a sequence, the transaction-level side of the equivalences R127, R147,
R168 and R195. -/

namespace Sys2Proof.Machine

/-- `EncStep(bs[0]); EncStep(bs[1]); ...` (R127). -/
def encSteps : List Byte → State → State
  | [], s => s
  | b :: bs, s => encSteps bs (encStep b s)

/-- `DecStep(t[0]); DecStep(t[1]); ...` (R147): the bytes returned, leaving out none, and the state after. -/
def decSteps : List Byte → State → List Byte × State
  | [], s => ([], s)
  | c :: t, s =>
    ((decStep c s).1.toList ++ (decSteps t (decStep c s).2).1, (decSteps t (decStep c s).2).2)

/-- `XorStep(bs[0]); XorStep(bs[1]); ...` (R168): the bytes returned and the state after. -/
def xorSteps : List Byte → State → List Byte × State
  | [], s => ([], s)
  | b :: bs, s => ((xorStep b s).1 :: (xorSteps bs (xorStep b s).2).1, (xorSteps bs (xorStep b s).2).2)

/-- `Item(p[0]); Item(p[1]); ...` (R195). -/
def items : List Byte → State → State
  | [], s => s
  | v :: vs, s => items vs (item v s)

end Sys2Proof.Machine
end

