-- ==== Sys2Proof/Safety.lean ====
section
/-! DEFINITION. What a state of the block may look like (10_state.md R45), in the terms the statements use. -/

namespace Sys2Proof.Machine

/-- R45 (b): `ECNT` is 0, 1 or 2. -/
abbrev EncoderCountLegal (s : State) : Prop := s.ecnt = 0#2 ∨ s.ecnt = 1#2 ∨ s.ecnt = 2#2

/-- R45 (c): `DNB` is 0, 2, 4 or 6, and `DACC < 2^DNB`. -/
abbrev ResidueLegal (s : State) : Prop :=
  (s.dnb = 0#3 ∨ s.dnb = 2#3 ∨ s.dnb = 4#3 ∨ s.dnb = 6#3) ∧ s.dacc.toNat < 2 ^ s.dnb.toNat

/-- R45 (d), (e), (f): `OQ` fits its capacity, is empty in `IDLE` and holds an item in `DRAIN`. -/
abbrev QueueLegal (s : State) : Prop :=
  s.oq.length ≤ s.cfg.oqcap ∧ (s.phase = .idle → s.oq = []) ∧ (s.phase = .drain → s.oq ≠ [])

/-- R45 (g): `OPR` is 0 to 5, and 1 to 5 while busy. -/
abbrev CommandLegal (s : State) : Prop := s.opr.toNat ≤ 5 ∧ (s.phase ≠ .idle → s.opr ≠ 0#3)

/-- A keyed operation is running: `BUSY` with `OPR` in 3, 4, 5. -/
abbrev KeyedRunning (s : State) : Prop := s.phase ≠ .idle ∧ (s.opr = 3#3 ∨ s.opr = 4#3 ∨ s.opr = 5#3)

/-- R45 (h), (i): `KIDX <= 254`, and while a keyed operation runs `KIDX < EKLEN` and `EKLEN >= 1`. -/
abbrev KeyIndexLegal (s : State) : Prop :=
  s.kidx.toNat ≤ 254 ∧ (KeyedRunning s → s.kidx.toNat < eklen s.dkr s ∧ 1 ≤ eklen s.dkr s)

/-- R45 (k): `DSTOP = 1` only when `OPR` is 2 or 5. -/
abbrev StopLegal (s : State) : Prop := s.dstop = true → s.opr = 2#3 ∨ s.opr = 5#3

/-- The invariant of R45, items (a) to (i) and (k), with `OQCAP >= 4` (R8) and the canonical form of the key store. Item
(a) holds by the type of `STATE`; item (j) is about a step and is stated on its own. -/
abbrev Inv (s : State) : Prop :=
  s.cfg.Valid ∧ EncoderCountLegal s ∧ ResidueLegal s ∧ QueueLegal s ∧ CommandLegal s ∧ KeyIndexLegal s
    ∧ StopLegal s ∧ Memory.wf s.key = true

/-- The datapath as an accepted command finds it (R181). -/
abbrev DatapathCleared (s : State) : Prop :=
  s.ebuf = 0#16 ∧ s.ecnt = 0#2 ∧ s.dacc = 0#6 ∧ s.dnb = 0#3 ∧ s.dstop = false ∧ s.kidx = 0#8

/-- There is room for the items of any one data step: `OQCAP - len(OQ) >= 4` (R35). -/
abbrev HasRoom (s : State) : Prop := 4 ≤ s.cfg.oqcap - s.oq.length

/-- No access has been refused since the flag was last cleared: the premise by which R220 lets a claim rule out a host
outside the protocol. -/
abbrev ProtocolClean (s : State) : Prop := s.perr = false

end Sys2Proof.Machine
end

