-- ==== Sys2Proof/Certificates/Slice0/Obligations.lean ====
section
/-! DEFINITION. The statements for the provers, in the order of OBLIGATIONS.json. -/

open Sys2Proof Sys2Proof.Machine

/-! ## Encoding (30_encoding.md) -/

/-- R91, R93, R102: the decoder reads every instruction back from its own word, at every value of every operand. -/
def Obligations.DecodeOfEncodeIsSame : Prop :=
  ∀ i : Instr, decode (encode i) = .ok i

/-- R91, R93, R102: a word that decodes is the word of what it decodes to, so no two words decode to one instruction. For
a read word whose D field is not `0x00`, which is not the word R93 gives `RD(a)`, this is the model's choice: it makes D an
operand of the five reads (DEDUCED, log entry 5). -/
def Obligations.EncodeOfDecodeIsSame : Prop :=
  ∀ (e : Encoded) (i : Instr), decode e = .ok i → encode i = e

/-- R102: the decoder follows the table's match and mask. A word decodes to an instruction only where it matches that
instruction's row, a word it rejects matches no row, and no word matches two rows. -/
def Obligations.DecoderFollowsTheDisjointRows : Prop :=
  (∀ (e : Encoded) (i : Instr), decode e = .ok i → (rowOf i).matches e = true) ∧
  (∀ (e : Encoded) (r : Reject), decode e = .error r → ∀ i : Instr, (rowOf i).matches e = false) ∧
  (∀ (e : Encoded) (i j : Instr), (rowOf i).matches e = true → (rowOf j).matches e = true → rowOf i = rowOf j)

/-- R93, R102, R103: words of the spec's own examples, and one of each family, decode to what they stand for. -/
def Obligations.ExampleWordsDecode : Prop :=
  decode (.bus 0x20341#18) = .ok (.push 0x41#8) ∧
  decode (.bus 0x00400#18) = .ok (.pop 0x00#8) ∧
  decode (.bus 0x3006B#18) = .ok (.keyw 0x00#8 0x6B#8) ∧
  decode (.bus 0x1FF00#18) = .ok (.keyr 0xFF#8 0x00#8) ∧
  decode (.bus 0x20130#18) = .ok (.stclr 0x30#8) ∧
  decode (.bus 0x2000C#18) = .ok (.cmdw 0x0C#8) ∧
  decode (.cmd 0x0C#8) = .ok (.aenc true) ∧
  decode (.cmd 0x02#8) = .ok (.b64d false) ∧
  decode (.bus 0x20400#18) = .error .refusedWrite ∧
  decode (.bus 0x00300#18) = .error .refusedRead ∧
  decode (.cmd 0x06#8) = .error .reservedCommand

/-- R99: which command bytes are reserved, that these are all but ten, and that one written in `IDLE` starts nothing and
changes no state except `PERR`. -/
def Obligations.ReservedCommandsStartNothing : Prop :=
  (∀ c : Byte, decodeCmd c = .error .reservedCommand ↔
    c.extractLsb' 4 4 ≠ 0#4 ∨ c.extractLsb' 0 3 = 0#3 ∨ c.extractLsb' 0 3 = 6#3 ∨ c.extractLsb' 0 3 = 7#3) ∧
  (∀ c : Byte, decodeCmd c = .error .reservedCommand ↔
    ¬ (0x01#8 ≤ c ∧ c ≤ 0x05#8) ∧ ¬ (0x09#8 ≤ c ∧ c ≤ 0x0D#8)) ∧
  (∀ (c : Byte) (s : State), decodeCmd c = .error .reservedCommand → s.phase = .idle →
    exec (.cmdw c) s = .next { s with perr := true })

/-- R102: an access word is decoded "first as `BUS`, then its `D` field as `CMD`". -/
def Obligations.CtrlWriteDecodesInTwoStages : Prop :=
  (∀ (w : BusWord) (c : Byte) (i : Instr), decodeBus w = .ok (.cmdw c) → decodeCmd c = .ok i →
    decodeAccess w = .ok i) ∧
  (∀ (w : BusWord) (c : Byte) (r : Reject), decodeBus w = .ok (.cmdw c) → decodeCmd c = .error r →
    decodeAccess w = .ok (.cmdw c)) ∧
  (∀ w : BusWord, (∀ c, decodeBus w ≠ .ok (.cmdw c)) → decodeAccess w = decodeBus w)

/-! ## The step (00_scope.md R18, 20_memory.md R61, R68) -/

/-- A STEP RUNS THE DECODED INSTRUCTION: the oldest access leaves the host's stream (the model's field, log entry 1), the
returned byte is cleared (log entry 3), and the instruction runs. -/
def Obligations.StepRunsTheDecodedInstruction : Prop :=
  ∀ (s : State) (w : BusWord) (rest : List HostEvent) (i : Instr),
    s.host = .access w :: rest → decodeAccess w = .ok i →
    step s = exec i { s with host := rest, rdata := none }

/-- Presenting an instruction's own word to the block runs that instruction, whatever the row: a command byte travels as
the D field of a `CTRL` write (R91, R103), and a `CTRL` write of a legal byte does what its command does (R102). The
stream of pending accesses, the returned byte and the D operand of a read are the model's (log entries 1, 3, 5, 6). -/
def Obligations.StepRunsTheEncodedInstruction : Prop :=
  ∀ (s : State) (rest : List HostEvent) (i : Instr),
    s.host = .access (accessWord (encode i)) :: rest →
    step s = exec i { s with host := rest, rdata := none }

/-- R61: every access is total. A step always answers a next state; in the model no step faults or is refused. R18, R226:
with no access pending the block holds its state; that a step is then taken at all is the model's choice (log entry 1). -/
def Obligations.EveryStepAnswersNext : Prop :=
  (∀ s : State, ∃ t : State, step s = .next t) ∧ (∀ s : State, s.host = [] → step s = .next s)

/-- R240: reset, in any state, puts every piece of state at the value of R46. The parameters and what the host has yet to
issue are the model's fields and stay; the returned byte is the model's and is cleared (log entries 1, 2, 3). -/
def Obligations.ResetEventClearsEverything : Prop :=
  ∀ (s : State) (rest : List HostEvent), s.host = .reset :: rest →
    ∃ t : State, step s = .next t ∧
      t.phase = .idle ∧ t.opr = 0#3 ∧ t.dkr = false ∧ t.ia = false ∧ t.perr = false ∧ t.ebuf = 0x0000#16 ∧
      t.ecnt = 0#2 ∧ t.dacc = 0#6 ∧ t.dnb = 0#3 ∧ t.dstop = false ∧ t.kidx = 0x00#8 ∧ t.klen = 0x00#8 ∧
      (∀ i : Byte, readKey i t = 0x00#8) ∧ t.oq = [] ∧ t.cfg = s.cfg ∧ t.host = rest ∧ t.rdata = none

/-- R241: after reset the block executes nothing by itself, everything the host can read reads `0x00`, and the first
command may be written immediately. -/
def Obligations.AfterResetEverythingReadsZero : Prop :=
  step State.reset = .next State.reset ∧
  (∀ d : Byte, exec (.statr d) State.reset = .next { State.reset with rdata := some 0x00#8 }) ∧
  (∀ d : Byte, exec (.ctrlr d) State.reset = .next { State.reset with rdata := some 0x00#8 }) ∧
  (∀ d : Byte, exec (.klenr d) State.reset = .next { State.reset with rdata := some 0x00#8 }) ∧
  (∀ i d : Byte, exec (.keyr i d) State.reset = .next { State.reset with rdata := some 0x00#8 }) ∧
  (∀ dk : Bool, exec (.b64e dk) State.reset = .next { State.reset with phase := .run, opr := 1#3, dkr := dk })

/-! ## The invariant (10_state.md R45) -/

/-- R45 holds right after reset. -/
def Obligations.ResetMeetsTheInvariant : Prop := Inv State.reset

/-- R45: every step, from any state that meets the invariant, keeps it: `ECNT` and `DNB` legal, `DACC` within its bits,
`OQ` within `OQCAP`, empty in `IDLE` and not in `DRAIN`, a legal command while busy, `KIDX` within the key, `DSTOP` only
for a decoding command, the key store in its canonical form. -/
def Obligations.StepKeepsTheInvariant : Prop :=
  ∀ s t : State, Inv s → step s = .next t → Inv t

/-- R45 (j), R71: no access changes the key store or `KLEN` while the block is busy. -/
def Obligations.BusyKeepsTheKey : Prop :=
  ∀ (s t : State) (w : BusWord) (rest : List HostEvent),
    s.host = .access w :: rest → s.phase ≠ .idle → step s = .next t → t.klen = s.klen ∧ t.key = s.key

/-- R21: the only ways in which an access changes `STATE`, and that reset ends in `IDLE`. -/
def Obligations.StateChangesOnlyAsListed : Prop :=
  (∀ (s t : State) (w : BusWord) (rest : List HostEvent),
    s.host = .access w :: rest → step s = .next t → t.phase ≠ s.phase →
    (s.phase = .idle ∧ t.phase = .run ∧ ∃ op dk, decodeAccess w = .ok (startInstr op dk)) ∨
    (s.phase = .run ∧ HasRoom s ∧ (∃ x, decodeAccess w = .ok (.fin x)) ∧
      ((t.phase = .idle ∧ t.oq = []) ∨ (t.phase = .drain ∧ t.oq ≠ []))) ∨
    (s.phase = .drain ∧ t.phase = .idle ∧ (∃ d, decodeAccess w = .ok (.pop d)) ∧ ∃ y, s.oq = [y])) ∧
  (∀ (s t : State) (rest : List HostEvent), s.host = .reset :: rest → step s = .next t → t.phase = .idle)

/-- R22: `OPR` and `DKR` change only where a command is accepted, and then hold its `OP` and `DK` fields. -/
def Obligations.CommandRegistersLatchAcceptedCommands : Prop :=
  ∀ (s t : State) (w : BusWord) (rest : List HostEvent),
    s.host = .access w :: rest → step s = .next t →
    (t.opr = s.opr ∧ t.dkr = s.dkr) ∨
    (s.phase = .idle ∧ t.phase = .run ∧ busW w = true ∧ busA w = 0x000#9 ∧
      t.opr = (busD w).extractLsb' 0 3 ∧ t.dkr = (busD w).getLsbD 3)

/-! ## Commands (43_composition_controller.md R178 to R183) -/

/-- R122, R142, R180, R181: in `IDLE`, `B64E` and `B64D` are accepted, whatever `KLEN` and `DK` are; the whole next state. -/
def Obligations.UnkeyedCommandsAreAccepted : Prop :=
  ∀ (dk : Bool) (s : State), s.phase = .idle →
    exec (.b64e dk) s = .next { s with
      phase := .run, opr := 1#3, dkr := dk, ebuf := 0#16, ecnt := 0#2, dacc := 0#6, dnb := 0#3, dstop := false,
      kidx := 0#8 } ∧
    exec (.b64d dk) s = .next { s with
      phase := .run, opr := 2#3, dkr := dk, ebuf := 0#16, ecnt := 0#2, dacc := 0#6, dnb := 0#3, dstop := false,
      kidx := 0#8 }

/-- R162, R182, R183, R180, R181: in `IDLE` and with a non-empty effective key, `XORT`, `AENC` and `ADEC` are accepted. -/
def Obligations.KeyedCommandsAreAccepted : Prop :=
  ∀ (dk : Bool) (s : State), s.phase = .idle → (dk = true ∨ s.klen ≠ 0x00#8) →
    exec (.xort dk) s = .next { s with
      phase := .run, opr := 3#3, dkr := dk, ebuf := 0#16, ecnt := 0#2, dacc := 0#6, dnb := 0#3, dstop := false,
      kidx := 0#8 } ∧
    exec (.aenc dk) s = .next { s with
      phase := .run, opr := 4#3, dkr := dk, ebuf := 0#16, ecnt := 0#2, dacc := 0#6, dnb := 0#3, dstop := false,
      kidx := 0#8 } ∧
    exec (.adec dk) s = .next { s with
      phase := .run, opr := 5#3, dkr := dk, ebuf := 0#16, ecnt := 0#2, dacc := 0#6, dnb := 0#3, dstop := false,
      kidx := 0#8 }

/-- R212: the effect of `raise InvalidArgument`. A keyed command with `DK = 0` and `KLEN = 0` in `IDLE` sets `IA` and
changes nothing else; the block is not busy after it. -/
def Obligations.EmptyKeySetsInvalidArgumentOnly : Prop :=
  ∀ s : State, s.phase = .idle → s.klen = 0x00#8 →
    exec (.xort false) s = .next { s with ia := true } ∧
    exec (.aenc false) s = .next { s with ia := true } ∧
    exec (.adec false) s = .next { s with ia := true } ∧
    busy { s with ia := true } = false

/-- R210: nothing but a keyed command with `DK = 0` and `KLEN = 0`, written in `IDLE`, sets `IA`. -/
def Obligations.NothingElseSetsInvalidArgument : Prop :=
  ∀ s t : State, step s = .next t → s.ia = false → t.ia = true →
    ∃ (op : Op) (rest : List HostEvent), keyed op = true ∧ s.host = .access (startWord op false) :: rest ∧
      s.phase = .idle ∧ s.klen = 0x00#8 ∧ t = { s with host := rest, rdata := none, ia := true }

/-- R178, cause P1 of R216: every command written while the block is busy is dropped with `PERR`. -/
def Obligations.BusyDropsEveryCommand : Prop :=
  ∀ s : State, s.phase ≠ .idle →
    (∀ c : Byte, exec (.cmdw c) s = .next { s with perr := true }) ∧
    (∀ dk : Bool,
      exec (.b64e dk) s = .next { s with perr := true } ∧ exec (.b64d dk) s = .next { s with perr := true } ∧
      exec (.xort dk) s = .next { s with perr := true } ∧ exec (.aenc dk) s = .next { s with perr := true } ∧
      exec (.adec dk) s = .next { s with perr := true })

/-- R178: the `CTRL` write makes its tests in this order: busy, reserved, empty key, acceptance. -/
def Obligations.CommandWriteTestsInOrder : Prop :=
  ∀ (c : Byte) (s : State), exec (.cmdw c) s = .next (
    if s.phase ≠ .idle then { s with perr := true }
    else if c.extractLsb' 4 4 ≠ 0#4 ∨ c.extractLsb' 0 3 = 0#3 ∨ c.extractLsb' 0 3 = 6#3 ∨ c.extractLsb' 0 3 = 7#3 then
      { s with perr := true }
    else if (c.extractLsb' 0 3 = 3#3 ∨ c.extractLsb' 0 3 = 4#3 ∨ c.extractLsb' 0 3 = 5#3) ∧ c.getLsbD 3 = false
        ∧ s.klen = 0x00#8 then
      { s with ia := true }
    else
      { s with
        phase := .run, opr := c.extractLsb' 0 3, dkr := c.getLsbD 3, ebuf := 0#16, ecnt := 0#2, dacc := 0#6,
        dnb := 0#3, dstop := false, kidx := 0#8 })

/-- R178, R180: a legal command byte that needs no key, or has one, written in `IDLE`, is accepted. -/
def Obligations.LegalCommandWriteIsAccepted : Prop :=
  ∀ (op : Op) (dk : Bool) (s : State), s.phase = .idle → (keyed op = false ∨ dk = true ∨ s.klen ≠ 0x00#8) →
    exec (.cmdw (cmdByte op dk)) s = .next { s with
      phase := .run, opr := opCode op, dkr := dk, ebuf := 0#16, ecnt := 0#2, dacc := 0#6, dnb := 0#3,
      dstop := false, kidx := 0#8 }

/-- R102, R178: the row `CMDW` with a legal command byte does, in every state, exactly what that command's row does. -/
def Obligations.CtrlWriteDoesWhatItsCommandDoes : Prop :=
  ∀ (c : Byte) (i : Instr) (s : State), decodeCmd c = .ok i → exec (.cmdw c) s = exec i s

/-- R180: after acceptance, from any state that meets the invariant, `IN_RDY` = 1, `OUT_VLD` = 0 and `BUSY` = 1. -/
def Obligations.AcceptedCommandTakesInput : Prop :=
  ∀ (op : Op) (dk : Bool) (s : State), Inv s → s.phase = .idle → (keyed op = false ∨ dk = true ∨ s.klen ≠ 0x00#8) →
    ∃ t : State, exec (startInstr op dk) s = .next t ∧
      (statusByte t).getLsbD 0 = true ∧ (statusByte t).getLsbD 1 = true ∧ (statusByte t).getLsbD 2 = false

/-- R227: the empty key fails at both levels, and the other commands are accepted with `KLEN` = 0. -/
def Obligations.EmptyKeyFailsAtBothLevels : Prop :=
  (∀ b : List Byte, xort b [] = .invalidArgument ∧ aenc b [] = .invalidArgument ∧ adec b [] = .invalidArgument) ∧
  (∀ s : State, s.phase = .idle → s.klen = 0x00#8 →
    (∀ c : Byte, c = 0x03#8 ∨ c = 0x04#8 ∨ c = 0x05#8 →
      exec (.cmdw c) s = .next { s with ia := true } ∧ busy { s with ia := true } = false) ∧
    (∀ c : Byte, c = 0x01#8 ∨ c = 0x02#8 ∨ (0x09#8 ≤ c ∧ c ≤ 0x0D#8) →
      ∃ t : State, exec (.cmdw c) s = .next t ∧ t.phase = .run ∧ t.opr = c.extractLsb' 0 3 ∧ t.ia = s.ia))

/-! ## Registers (10_state.md R37 to R44) -/

/-- R37: reading `CTRL` returns `0b0000 ++ DKR ++ OPR` and changes nothing else. -/
def Obligations.CtrlReadsTheLastCommand : Prop :=
  ∀ (d : Byte) (s : State), ∃ v : Byte, exec (.ctrlr d) s = .next { s with rdata := some v } ∧
    v.extractLsb' 4 4 = 0#4 ∧ v.getLsbD 3 = s.dkr ∧ v.extractLsb' 0 3 = s.opr

/-- R38: reading `STATUS` returns its eight bits and changes nothing else; writing it clears `IA` and `PERR` where the
byte has ones and changes nothing else, in every `STATE`. -/
def Obligations.StatusReadsBitsAndClearsFlags : Prop :=
  (∀ (d : Byte) (s : State), ∃ v : Byte, exec (.statr d) s = .next { s with rdata := some v } ∧
    v.getLsbD 0 = decide (s.phase ≠ .idle) ∧ v.getLsbD 1 = decide (s.phase = .run ∧ HasRoom s) ∧
    v.getLsbD 2 = decide (s.oq ≠ []) ∧ v.getLsbD 3 = false ∧ v.getLsbD 4 = s.ia ∧ v.getLsbD 5 = s.perr ∧
    v.getLsbD 6 = s.dstop ∧ v.getLsbD 7 = false) ∧
  (∀ (m : Byte) (s : State), exec (.stclr m) s = .next { s with
    ia := if m.getLsbD 4 then false else s.ia, perr := if m.getLsbD 5 then false else s.perr })

/-- R39: `KLEN` reads in every `STATE`, takes any value in `IDLE`, and is locked while the block is busy. -/
def Obligations.KeyLengthRegister : Prop :=
  (∀ (d : Byte) (s : State), exec (.klenr d) s = .next { s with rdata := some s.klen }) ∧
  (∀ (n : Byte) (s : State), s.phase = .idle → exec (.klenw n) s = .next { s with klen := n }) ∧
  (∀ (n : Byte) (s : State), s.phase ≠ .idle → exec (.klenw n) s = .next { s with perr := true })

/-- R43: every address with bit 8 set is `KEY[i]`, `i` its bits 7:0; it reads in every `STATE`; a write in `IDLE` sets
that byte, leaves every other byte and everything else; a write while busy is dropped with `PERR`. -/
def Obligations.KeyStoreReadsAndWrites : Prop :=
  (∀ (a : Addr) (v : Byte), a.getLsbD 8 = true →
    decodeBus (rd a) = .ok (.keyr (a.extractLsb' 0 8) 0x00#8) ∧
    decodeBus (wr a v) = .ok (.keyw (a.extractLsb' 0 8) v)) ∧
  (∀ (i d : Byte) (s : State), exec (.keyr i d) s = .next { s with rdata := some (readKey i s) }) ∧
  (∀ (i v : Byte) (s : State), s.phase = .idle →
    ∃ t : State, exec (.keyw i v) s = .next t ∧ t = { s with key := t.key } ∧ readKey i t = v ∧
      ∀ j : Byte, j ≠ i → readKey j t = readKey j s) ∧
  (∀ (i v : Byte) (s : State), s.phase ≠ .idle → exec (.keyw i v) s = .next { s with perr := true })

/-- R44: an access to a reserved address, `0x006` to `0x0FF`, is refused: a read returns `0x00`, a write is dropped, and no
state other than `PERR` changes (the stream and the returned byte are the model's, log entries 1 and 3). -/
def Obligations.ReservedAddressesAreRefused : Prop :=
  ∀ (s : State) (a : Addr) (v : Byte) (rest : List HostEvent), 0x006#9 ≤ a → a ≤ 0x0FF#9 →
    (s.host = .access (rd a) :: rest →
      step s = .next { s with host := rest, perr := true, rdata := some 0x00#8 }) ∧
    (s.host = .access (wr a v) :: rest →
      step s = .next { s with host := rest, perr := true, rdata := none })

/-- R216: the complete list of refused accesses. Under one of the causes P1 to P7 an access sets `PERR`, changes no other
state, and a refused read returns `0x00`; under none of them no access sets `PERR` (the stream and the returned byte are
the model's, log entries 1 and 3). -/
def Obligations.RefusalsAreExactlyTheListedCauses : Prop :=
  ∀ (s t : State) (w : BusWord) (rest : List HostEvent), s.host = .access w :: rest → step s = .next t →
    let refused : Prop :=
      (busW w = true ∧ busA w = 0x000#9 ∧ s.phase ≠ .idle) ∨
      (busW w = true ∧ busA w = 0x000#9 ∧ s.phase = .idle ∧ decodeCmd (busD w) = .error .reservedCommand) ∨
      (busW w = true ∧ (busA w = 0x002#9 ∨ (busA w).getLsbD 8 = true) ∧ s.phase ≠ .idle) ∨
      (busW w = true ∧ busA w = 0x003#9 ∧ ¬ (s.phase = .run ∧ HasRoom s)) ∨
      (busW w = true ∧ busA w = 0x005#9 ∧ ¬ (s.phase = .run ∧ HasRoom s)) ∨
      (busW w = false ∧ busA w = 0x004#9 ∧ s.oq = []) ∨
      (busW w = false ∧ (busA w = 0x003#9 ∨ busA w = 0x005#9)) ∨
      (busW w = true ∧ busA w = 0x004#9) ∨
      (0x006#9 ≤ busA w ∧ busA w ≤ 0x0FF#9)
    (refused → t = { s with host := rest, perr := true, rdata := if busW w then none else some 0x00#8 }) ∧
    (¬ refused → s.perr = false → t.perr = false)

/-- R34, R218: the flags gate nothing. With other values in `IA` and `PERR`, an access other than the `STATUS` read has
the same effect on everything but the two flags. -/
def Obligations.FlagsGateNothing : Prop :=
  ∀ (i : Instr) (s t : State) (a p : Bool), (∀ d, i ≠ .statr d) → exec i s = .next t →
    ∃ a' p' : Bool, exec i { s with ia := a, perr := p } = .next { t with ia := a', perr := p' }

/-! ## Data steps (40_base64_encoder.md, 41_base64_decoder.md, 42_xor_cipher.md) -/

/-- R124: `EncStep` as `PUSH` runs it in `B64E`: the first and the second byte of a group are held, the third completes
it and emits its four characters (R100), storing nothing. -/
def Obligations.EncoderTakesAByte : Prop :=
  ∀ (v : Byte) (s : State), s.phase = .run → HasRoom s → s.opr = 1#3 →
    (s.ecnt = 0#2 → exec (.push v) s = .next { s with ebuf := v ++ s.ebuf.extractLsb' 0 8, ecnt := 1#2 }) ∧
    (s.ecnt = 1#2 → exec (.push v) s = .next { s with ebuf := s.ebuf.extractLsb' 8 8 ++ v, ecnt := 2#2 }) ∧
    (s.ecnt = 2#2 → exec (.push v) s = .next { s with
      ecnt := 0#2
      oq := s.oq ++ [alpha (s.ebuf.extractLsb' 10 6),
        alpha (s.ebuf.extractLsb' 8 2 ++ s.ebuf.extractLsb' 4 4),
        alpha (s.ebuf.extractLsb' 0 4 ++ v.extractLsb' 6 2),
        alpha (v.extractLsb' 0 6)] })

/-- R146: `DecStep` as `PUSH` runs it in `B64D`, "per value of `DNB` before the step": after the stop and on a skipped
character nothing changes, `=` sets `DSTOP`, a symbol shifts its six bits in and emits the byte it completes. -/
def Obligations.DecoderTakesACharacter : Prop :=
  ∀ (c : Byte) (s : State), s.phase = .run → HasRoom s → s.opr = 2#3 →
    (s.dstop = true → exec (.push c) s = .next s) ∧
    (s.dstop = false → c = 0x3D#8 → exec (.push c) s = .next { s with dstop := true }) ∧
    (s.dstop = false → c ≠ 0x3D#8 → (∀ v, c ≠ alpha v) → exec (.push c) s = .next s) ∧
    (∀ v : BitVec 6, s.dstop = false → c = alpha v →
      (s.dnb = 0#3 → exec (.push c) s = .next { s with dacc := v, dnb := 6#3 }) ∧
      (s.dnb = 6#3 → exec (.push c) s = .next { s with
        oq := s.oq ++ [s.dacc ++ v.extractLsb' 4 2], dacc := (v.extractLsb' 0 4).setWidth 6, dnb := 4#3 }) ∧
      (s.dnb = 4#3 → exec (.push c) s = .next { s with
        oq := s.oq ++ [s.dacc.extractLsb' 0 4 ++ v.extractLsb' 2 4], dacc := (v.extractLsb' 0 2).setWidth 6,
        dnb := 2#3 }) ∧
      (s.dnb = 2#3 → exec (.push c) s = .next { s with
        oq := s.oq ++ [s.dacc.extractLsb' 0 2 ++ v], dacc := 0#6, dnb := 0#3 }))

/-- R165: `XorStep` as `PUSH` runs it in `XORT`: the byte XORed with byte `KIDX` of the effective key is emitted, and
`KIDX` advances with wrap at the key's length. -/
def Obligations.CipherTakesAByte : Prop :=
  ∀ (v : Byte) (s : State), s.phase = .run → HasRoom s → s.opr = 3#3 →
    s.kidx.toNat < (effectiveKey s.dkr s).length →
    exec (.push v) s = .next { s with
      oq := s.oq ++ [v ^^^ (effectiveKey s.dkr s).getD s.kidx.toNat 0x00#8]
      kidx := if s.kidx.toNat + 1 = (effectiveKey s.dkr s).length then 0x00#8 else s.kidx + 1#8 }

/-- R182, R188: an item of `AENC` goes through the cipher first, then into the encoder. -/
def Obligations.AutosaveEncodeTakesAByte : Prop :=
  ∀ (v : Byte) (s : State), s.phase = .run → HasRoom s → s.opr = 4#3 →
    s.kidx.toNat < (effectiveKey s.dkr s).length →
    let x := v ^^^ (effectiveKey s.dkr s).getD s.kidx.toNat 0x00#8
    let k := if s.kidx.toNat + 1 = (effectiveKey s.dkr s).length then 0x00#8 else s.kidx + 1#8
    (s.ecnt = 0#2 → exec (.push v) s = .next { s with
      kidx := k, ebuf := x ++ s.ebuf.extractLsb' 0 8, ecnt := 1#2 }) ∧
    (s.ecnt = 1#2 → exec (.push v) s = .next { s with
      kidx := k, ebuf := s.ebuf.extractLsb' 8 8 ++ x, ecnt := 2#2 }) ∧
    (s.ecnt = 2#2 → exec (.push v) s = .next { s with
      kidx := k
      ecnt := 0#2
      oq := s.oq ++ [alpha (s.ebuf.extractLsb' 10 6),
        alpha (s.ebuf.extractLsb' 8 2 ++ s.ebuf.extractLsb' 4 4),
        alpha (s.ebuf.extractLsb' 0 4 ++ x.extractLsb' 6 2),
        alpha (x.extractLsb' 0 6)] })

/-- R183, R188: an item of `ADEC` goes through the decoder first, then, only where that gives a byte, through the cipher;
`KIDX` advances once per decoded byte. -/
def Obligations.AutosaveDecodeTakesACharacter : Prop :=
  ∀ (c : Byte) (s : State), s.phase = .run → HasRoom s → s.opr = 5#3 →
    s.kidx.toNat < (effectiveKey s.dkr s).length →
    let x := (effectiveKey s.dkr s).getD s.kidx.toNat 0x00#8
    let k := if s.kidx.toNat + 1 = (effectiveKey s.dkr s).length then 0x00#8 else s.kidx + 1#8
    (s.dstop = true → exec (.push c) s = .next s) ∧
    (s.dstop = false → c = 0x3D#8 → exec (.push c) s = .next { s with dstop := true }) ∧
    (s.dstop = false → c ≠ 0x3D#8 → (∀ v, c ≠ alpha v) → exec (.push c) s = .next s) ∧
    (∀ v : BitVec 6, s.dstop = false → c = alpha v →
      (s.dnb = 0#3 → exec (.push c) s = .next { s with dacc := v, dnb := 6#3 }) ∧
      (s.dnb = 6#3 → exec (.push c) s = .next { s with
        kidx := k, oq := s.oq ++ [(s.dacc ++ v.extractLsb' 4 2 : Byte) ^^^ x],
        dacc := (v.extractLsb' 0 4).setWidth 6, dnb := 4#3 }) ∧
      (s.dnb = 4#3 → exec (.push c) s = .next { s with
        kidx := k, oq := s.oq ++ [(s.dacc.extractLsb' 0 4 ++ v.extractLsb' 2 4 : Byte) ^^^ x],
        dacc := (v.extractLsb' 0 2).setWidth 6, dnb := 2#3 }) ∧
      (s.dnb = 2#3 → exec (.push c) s = .next { s with
        kidx := k, oq := s.oq ++ [(s.dacc.extractLsb' 0 2 ++ v : Byte) ^^^ x], dacc := 0#6, dnb := 0#3 }))

/-- R126, R189, R190: an accepted `FIN` flushes and leaves `RUN`. The encoder's operations emit the padded group of one or
two held bytes; the others emit nothing and change no datapath register (R148). `STATE` becomes `IDLE` exactly when `OQ`
is then empty. -/
def Obligations.EndOfInputFlushesAndLeavesRun : Prop :=
  ∀ (x : Byte) (s : State), s.phase = .run → HasRoom s →
    (s.opr = 2#3 ∨ s.opr = 3#3 ∨ s.opr = 5#3 →
      exec (.fin x) s = .next { s with phase := if s.oq = [] then .idle else .drain }) ∧
    (s.opr = 1#3 ∨ s.opr = 4#3 →
      (s.ecnt = 0#2 → exec (.fin x) s = .next { s with phase := if s.oq = [] then .idle else .drain }) ∧
      (s.ecnt = 1#2 → exec (.fin x) s = .next { s with
        phase := .drain
        ecnt := 0#2
        oq := s.oq ++ [alpha (s.ebuf.extractLsb' 10 6), alpha (s.ebuf.extractLsb' 8 2 ++ 0b0000#4), 0x3D#8, 0x3D#8] }) ∧
      (s.ecnt = 2#2 → exec (.fin x) s = .next { s with
        phase := .drain
        ecnt := 0#2
        oq := s.oq ++ [alpha (s.ebuf.extractLsb' 10 6), alpha (s.ebuf.extractLsb' 8 2 ++ s.ebuf.extractLsb' 4 4),
          alpha (s.ebuf.extractLsb' 0 4 ++ 0b00#2), 0x3D#8] }))

/-- R186, R190, causes P4 and P5 of R216: without `IN_RDY` a `DIN` or `FIN` write is dropped with `PERR`. -/
def Obligations.InputIsRefusedWithoutRoom : Prop :=
  ∀ (v : Byte) (s : State), ¬ (s.phase = .run ∧ HasRoom s) →
    exec (.push v) s = .next { s with perr := true } ∧ exec (.fin v) s = .next { s with perr := true }

/-- R192: a `DOUT` read removes and returns the head of `OQ` and completes the command where it empties `OQ` in `DRAIN`;
with `OQ` empty it returns `0x00`, removes nothing and sets `PERR`; in `IDLE` that is always so. -/
def Obligations.OutputReadTakesTheHead : Prop :=
  (∀ (d y : Byte) (rest : List Byte) (s : State), s.oq = y :: rest →
    exec (.pop d) s = .next { s with
      oq := rest, rdata := some y, phase := if s.phase = .drain ∧ rest = [] then .idle else s.phase }) ∧
  (∀ (d : Byte) (s : State), s.oq = [] → exec (.pop d) s = .next { s with perr := true, rdata := some 0x00#8 }) ∧
  (∀ (d : Byte) (s : State), Inv s → s.phase = .idle →
    exec (.pop d) s = .next { s with perr := true, rdata := some 0x00#8 })

/-- R23, R133, R157, R172: which datapath registers an operation leaves alone at `PUSH` and `FIN`; neither ever touches
the command registers, the key or `IA`. -/
def Obligations.OperationsTouchOnlyTheirRegisters : Prop :=
  ∀ (i : Instr) (s t : State), ((∃ v, i = .push v) ∨ (∃ x, i = .fin x)) → exec i s = .next t →
    (s.opr = 1#3 → t.dacc = s.dacc ∧ t.dnb = s.dnb ∧ t.dstop = s.dstop ∧ t.kidx = s.kidx) ∧
    (s.opr = 2#3 → t.ebuf = s.ebuf ∧ t.ecnt = s.ecnt ∧ t.kidx = s.kidx) ∧
    (s.opr = 3#3 → t.ebuf = s.ebuf ∧ t.ecnt = s.ecnt ∧ t.dacc = s.dacc ∧ t.dnb = s.dnb ∧ t.dstop = s.dstop) ∧
    (s.opr = 4#3 → t.dacc = s.dacc ∧ t.dnb = s.dnb ∧ t.dstop = s.dstop) ∧
    (s.opr = 5#3 → t.ebuf = s.ebuf ∧ t.ecnt = s.ecnt) ∧
    (t.opr = s.opr ∧ t.dkr = s.dkr ∧ t.klen = s.klen ∧ t.key = s.key ∧ t.ia = s.ia)

/-- R197: in `RUN` the host can always write input or read output, in `DRAIN` it can always read output. -/
def Obligations.ABusyBlockNeverDeadlocks : Prop :=
  ∀ s : State, Inv s →
    (s.phase = .run → inRdy s = true ∨ outVld s = true) ∧ (s.phase = .drain → outVld s = true)

/-! ## The function level (00_scope.md R10) -/

/-- R98: `alpha` is injective, `cls` inverts it, and no alphabet character is `=`. -/
def Obligations.ClassifierInvertsTheAlphabet : Prop :=
  (∀ i j : BitVec 6, alpha i = alpha j → i = j) ∧
  (∀ i : BitVec 6, cls (alpha i) = .sym i) ∧
  (∀ (c : Byte) (v : BitVec 6), cls c = .sym v → alpha v = c) ∧
  (∀ i : BitVec 6, alpha i ≠ 0x3D#8)

/-- The source's own examples, four of the encoder (R130) and three of the decoder (R150), and three values that are not
the source's but derived by this spec: `b64dec("//8=")` (R155) and the autosave example, whose text `EEcYSV9IFg==` R182
marks as derived by this spec, in both directions (R182, R183). -/
def Obligations.SourceExamplesHold : Prop :=
  b64enc [] = [] ∧ b64enc [0x41] = [0x51, 0x51, 0x3D, 0x3D] ∧ b64enc [0x41, 0x42] = [0x51, 0x55, 0x49, 0x3D] ∧
  b64enc [0x41, 0x42, 0x43] = [0x51, 0x55, 0x4A, 0x44] ∧
  b64dec [0x51, 0x55, 0x4A, 0x44, 0x0A] = [0x41, 0x42, 0x43] ∧
  b64dec [0x51, 0x55, 0x21, 0x4A, 0x44] = [0x41, 0x42, 0x43] ∧
  b64dec [0x51, 0x55, 0x4A, 0x44, 0x3D, 0x3D, 0x3D, 0x3D] = [0x41, 0x42, 0x43] ∧
  b64dec [0x2F, 0x2F, 0x38, 0x3D] = [0xFF, 0xFF] ∧
  aenc [0x7B, 0x22, 0x61, 0x22, 0x3A, 0x31, 0x7D] defaultKey =
    .seq [0x45, 0x45, 0x63, 0x59, 0x53, 0x56, 0x39, 0x49, 0x46, 0x67, 0x3D, 0x3D] ∧
  adec [0x45, 0x45, 0x63, 0x59, 0x53, 0x56, 0x39, 0x49, 0x46, 0x67, 0x3D, 0x3D, 0x0A] defaultKey =
    .seq [0x7B, 0x22, 0x61, 0x22, 0x3A, 0x31, 0x7D]

/-- R121: length, alphabet and padding, injectivity and concatenation of `b64enc`. -/
def Obligations.EncoderFunctionLaws : Prop :=
  (∀ bs : List Byte, (b64enc bs).length = 4 * ((bs.length + 2) / 3)) ∧
  (∀ bs : List Byte, ∃ pre : List (BitVec 6),
    b64enc bs = pre.map alpha ++ List.replicate ((3 - bs.length % 3) % 3) 0x3D#8) ∧
  b64enc [] = [] ∧
  (∀ x y : List Byte, b64enc x = b64enc y → x = y) ∧
  (∀ x y : List Byte, x.length % 3 = 0 → b64enc (x ++ y) = b64enc x ++ b64enc y)

/-- R141 (b), (c), (f): the length of `b64dec`, that it depends only on the valid symbols before the first `=`, and
concatenation after whole groups of four symbols. -/
def Obligations.DecoderFunctionLaws : Prop :=
  (∀ t : List Byte, (b64dec t).length = 6 * (symbols t).length / 8) ∧
  (∀ t : List Byte, b64dec t = b64dec ((symbols t).map alpha)) ∧
  (∀ x y : List Byte, 0x3D#8 ∉ x → (symbols x).length % 4 = 0 → b64dec (x ++ y) = b64dec x ++ b64dec y)

/-- R101: the closed form of `b64dec`. Bit `k` of output byte `j`, both counted from the most significant end, is bit
`8j + k` of the concatenated six-bit values; the `6n mod 8` trailing bits are never emitted. -/
def Obligations.DecodedBitsAreTheSymbolBits : Prop :=
  ∀ t : List Byte, (b64dec t).length = 6 * (symbols t).length / 8 ∧
    ∀ j k : Nat, 8 * j + 8 ≤ 6 * (symbols t).length → k < 8 →
      ((b64dec t).getD j 0x00#8).getMsbD k =
        ((symbols t).getD ((8 * j + k) / 6) 0#6).getMsbD ((8 * j + k) % 6)

/-- R129: decoding the encoder's own output gives back the input. -/
def Obligations.DecodingUndoesEncoding : Prop :=
  ∀ bs : List Byte, b64dec (b64enc bs) = bs

/-- R170: the cipher keeps the length and is its own inverse under every non-empty key, and refuses the empty key. -/
def Obligations.CipherIsItsOwnInverse : Prop :=
  (∀ b k : List Byte, k ≠ [] → ∃ x : List Byte, xort b k = .seq x ∧ x.length = b.length ∧ xort x k = .seq b) ∧
  (∀ b : List Byte, xort b [] = .invalidArgument ∧ aenc b [] = .invalidArgument ∧ adec b [] = .invalidArgument)

/-- R177: the round-trip contract of the two compositions, and that the other direction fails in general. -/
def Obligations.AutosaveRoundTrip : Prop :=
  (∀ b k : List Byte, k ≠ [] → ∃ c : List Byte, aenc b k = .seq c ∧ adec c k = .seq b) ∧
  (∃ c k p : List Byte, k ≠ [] ∧ adec c k = .seq p ∧ aenc p k ≠ .seq c)

/-! ## The two levels agree (43_composition_controller.md R195, R196) -/

/-- R127: the items the encoder's steps emit from `ECNT = 0`, with the flush, are `b64enc`. -/
def Obligations.EncoderStepsComputeTheFunction : Prop :=
  ∀ (bs : List Byte) (s : State), s.ecnt = 0#2 → (encFlush (encSteps bs s)).oq = s.oq ++ b64enc bs

/-- R28: after `n` bytes `ECNT` is `n mod 3`, `4 * (n div 3)` characters have been emitted, and `EBUF` holds the last
`n mod 3` bytes in order. -/
def Obligations.EncoderHoldsTheIncompleteGroup : Prop :=
  ∀ (bs : List Byte) (s : State), s.ecnt = 0#2 →
    (encSteps bs s).ecnt.toNat = bs.length % 3 ∧
    (encSteps bs s).oq.length = s.oq.length + 4 * (bs.length / 3) ∧
    (bs.length % 3 = 1 → bs.drop (bs.length - 1) = [(encSteps bs s).ebuf.extractLsb' 8 8]) ∧
    (bs.length % 3 = 2 →
      bs.drop (bs.length - 2) = [(encSteps bs s).ebuf.extractLsb' 8 8, (encSteps bs s).ebuf.extractLsb' 0 8])

/-- R147: the bytes the decoder's steps return from the cleared state are `b64dec`; before the stop, `DACC` and `DNB` are
the rolling buffer of R140; after it nothing more comes. -/
def Obligations.DecoderStepsComputeTheFunction : Prop :=
  ∀ (t : List Byte) (s : State), s.dstop = false → s.dacc = 0#6 → s.dnb = 0#3 →
    (decSteps t s).1 = b64dec t ∧
    (∀ x y : List Byte, t = x ++ y → 0x3D#8 ∉ x →
      b64dec t = (decSteps x s).1 ++ b64decFrom (decSteps x s).2.dacc.toNat (decSteps x s).2.dnb.toNat y) ∧
    (∀ x y : List Byte, t = x ++ y → 0x3D#8 ∈ x → (decSteps y (decSteps x s).2).1 = [])

/-- R168, R166: the bytes the cipher's steps return from `KIDX = 0` are `xort` under the effective key, `KIDX` is then the
number of bytes modulo the key's length, and the end of the input changes no cipher state, in `XORT` nothing at all. -/
def Obligations.CipherStepsComputeTheFunction : Prop :=
  ∀ (bs : List Byte) (s : State), s.kidx = 0x00#8 → effectiveKey s.dkr s ≠ [] →
    xort bs (effectiveKey s.dkr s) = .seq (xorSteps bs s).1 ∧
    (xorSteps bs s).2.kidx.toNat = bs.length % (effectiveKey s.dkr s).length ∧
    (∀ u : State, (flush u).kidx = u.kidx) ∧ (∀ u : State, u.opr = 3#3 → flush u = u)

/-- R195: streaming equals function composition. From a cleared datapath, the items the data steps and the flush of any of
the five operations emit are that operation's function of the input and the effective key. -/
def Obligations.StreamingEqualsTheFunction : Prop :=
  ∀ (op : Op) (input : List Byte) (s : State), DatapathCleared s → s.opr = opCode op →
    (keyed op = true → effectiveKey s.dkr s ≠ []) →
    ∃ out : List Byte, operation op input (effectiveKey s.dkr s) = .seq out ∧
      (flush (items input s)).oq = s.oq ++ out

/-- R196: the main correctness statement. From any `IDLE` state that meets the invariant, a command with an empty
effective key sets `IA` only; any other, observed until `STATE` first returns to `IDLE` under any accesses whatever
(polling, refused accesses, early reads), returns exactly its function of the accepted input, for every `OQCAP >= 4`. -/
def Obligations.CommandComputesItsFunction : Prop :=
  ∀ (s : State) (op : Op) (dk : Bool), Inv s → s.phase = .idle →
    (keyed op = true → effectiveKey dk s = [] →
      issue (startWord op dk) s = { s with host := [], rdata := none, ia := true }) ∧
    (keyed op = false ∨ effectiveKey dk s ≠ [] →
      ∀ (ws : List BusWord) (ins outs : List Byte),
        observe ws (issue (startWord op dk) s) = some (ins, outs) →
        operation op ins (effectiveKey dk s) = .seq outs)

/-- R75, R242: a command forgets the past. From two `IDLE` states with the same parameters and key, the same accesses
give the same input and output sequences, whatever the datapath, the last command and the flags were. And in `IDLE`
nothing but `KEY`, `KLEN`, `OPR`, `DKR`, `DSTOP` and the flags can be told apart from outside: with these equal, every
sequence of accesses returns the same bytes, whatever `EBUF`, `ECNT`, `DACC`, `DNB` and `KIDX` hold. That is the first
sentence of R242 for what the host can see (R47); as a sentence about those registers' contents the model does not follow
it, because R148, R23 and the end states of the spec's programs say otherwise (DEDUCED, log entry 11). -/
def Obligations.CommandsAreIndependent : Prop :=
  (∀ (s s' : State) (op : Op) (dk : Bool) (ws : List BusWord),
    Inv s → Inv s' → s.phase = .idle → s'.phase = .idle → s.cfg = s'.cfg → s.key = s'.key → s.klen = s'.klen →
    observe ws (issue (startWord op dk) s) = observe ws (issue (startWord op dk) s')) ∧
  (∀ (s s' : State) (ws : List BusWord),
    Inv s → Inv s' → s.phase = .idle → s'.phase = .idle → s.cfg = s'.cfg → s.key = s'.key → s.klen = s'.klen →
    s.opr = s'.opr → s.dkr = s'.dkr → s.dstop = s'.dstop → s.ia = s'.ia → s.perr = s'.perr →
    returnedBytes ws s = returnedBytes ws s')

/-- R103, R243: `LDKEY` in `IDLE` makes its operand the effective key of `DK = 0` commands and is never refused. -/
def Obligations.LoadKeyMakesTheEffectiveKey : Prop :=
  ∀ (k : List Byte) (s : State), s.phase = .idle → k.length ≤ 255 →
    let t := issueAll (ldkeyWords k) s
    effectiveKey false t = k ∧ t.phase = .idle ∧ t.perr = s.perr ∧ t.ia = s.ia ∧
      ∀ i : Byte, k.length ≤ i.toNat → readKey i t = readKey i s

/-- R105: the canonical driver never sets `PERR`, ends in `IDLE`, and its reads return the function-level result; with the
empty key it stops at `IA`. -/
def Obligations.CanonicalDriverReturnsTheResult : Prop :=
  ∀ (op : Op) (dk : Bool) (k input : List Byte) (s : State), Inv s → s.phase = .idle → s.ia = false → k.length ≤ 255 →
    let r := canonicalDriver op dk k input s
    r.1.phase = .idle ∧ r.1.perr = s.perr ∧
    (match operation op input (if dk then defaultKey else k) with
      | .seq out => r.2 = some out
      | .invalidArgument => r.2 = none ∧ r.1.ia = true)
end

