-- ==== Sys2Proof/Laws/Bits.lean ====
section
/-! SUPPORT. The bits of the words the data steps assemble: a 24-bit group in its byte fields (30_encoding.md R100), the
decoder's 12-bit temporary in its fields (41_base64_decoder.md R146). -/

namespace Sys2Proof.Machine

/-- The bits of the encoder's buffer with the third byte below it, `EBUF[15:0] ++ x` (R124). -/
theorem getLsbD_group (e : BitVec 16) (x : Byte) (i : Nat) :
    (e ++ x : BitVec 24).getLsbD i = if i < 8 then x.getLsbD i else e.getLsbD (i - 8) :=
  BitVec.getLsbD_append

/-- The bits of two bytes side by side, the first one higher. -/
theorem getLsbD_pair (a b : Byte) (i : Nat) :
    (a ++ b : BitVec 16).getLsbD i = if i < 8 then b.getLsbD i else a.getLsbD (i - 8) :=
  BitVec.getLsbD_append

/-- The bits of the decoder's temporary, `DACC ++ v` (R146). -/
theorem getLsbD_temporary (a v : BitVec 6) (i : Nat) :
    (a ++ v : BitVec 12).getLsbD i = if i < 6 then v.getLsbD i else a.getLsbD (i - 6) :=
  BitVec.getLsbD_append

/-- `EBUF` is its two halves (R25). -/
theorem ebuf_halves (s : State) : ebufHi s ++ ebufLo s = s.ebuf := by
  apply BitVec.eq_of_getLsbD_eq
  intro i hi
  rw [getLsbD_pair, ebufHi, ebufLo, BitVec.getLsbD_extractLsb', BitVec.getLsbD_extractLsb']
  by_cases h : i < 8
  · simp [h]
  · have h1 : i - 8 < 8 := by omega
    have h2 : 8 + (i - 8) = i := by omega
    simp [h, h1, h2]

theorem ebufHi_pair (a b : Byte) : (a ++ b : BitVec 16).extractLsb' 8 8 = a := by
  apply BitVec.eq_of_getLsbD_eq
  intro i hi
  rw [BitVec.getLsbD_extractLsb', getLsbD_pair]
  simp [hi]

theorem ebufLo_pair (a b : Byte) : (a ++ b : BitVec 16).extractLsb' 0 8 = b := by
  apply BitVec.eq_of_getLsbD_eq
  intro i hi
  rw [BitVec.getLsbD_extractLsb', getLsbD_pair]
  simp [hi]

/-- The four characters of `EBUF` and a third byte, by the fields of R100. -/
theorem enc4_group (e : BitVec 16) (x : Byte) :
    enc4 (e ++ x) = [alpha (e.extractLsb' 10 6), alpha (e.extractLsb' 8 2 ++ e.extractLsb' 4 4),
      alpha (e.extractLsb' 0 4 ++ x.extractLsb' 6 2), alpha (x.extractLsb' 0 6)] := by
  have h1 : BitVec.extractLsb' 18 6 (e ++ x : BitVec 24) = e.extractLsb' 10 6 := by
    apply BitVec.eq_of_getLsbD_eq
    intro i hi
    rw [BitVec.getLsbD_extractLsb', getLsbD_group, BitVec.getLsbD_extractLsb']
    interval_cases i <;> rfl
  have h2 : BitVec.extractLsb' 12 6 (e ++ x : BitVec 24) = e.extractLsb' 8 2 ++ e.extractLsb' 4 4 := by
    apply BitVec.eq_of_getLsbD_eq
    intro i hi
    rw [BitVec.getLsbD_extractLsb', getLsbD_group, show (e.extractLsb' 8 2 ++ e.extractLsb' 4 4 : BitVec 6).getLsbD i
      = _ from BitVec.getLsbD_append, BitVec.getLsbD_extractLsb', BitVec.getLsbD_extractLsb']
    interval_cases i <;> simp
  have h3 : BitVec.extractLsb' 6 6 (e ++ x : BitVec 24) = e.extractLsb' 0 4 ++ x.extractLsb' 6 2 := by
    apply BitVec.eq_of_getLsbD_eq
    intro i hi
    rw [BitVec.getLsbD_extractLsb', getLsbD_group, show (e.extractLsb' 0 4 ++ x.extractLsb' 6 2 : BitVec 6).getLsbD i
      = _ from BitVec.getLsbD_append, BitVec.getLsbD_extractLsb', BitVec.getLsbD_extractLsb']
    interval_cases i <;> simp
  have h4 : BitVec.extractLsb' 0 6 (e ++ x : BitVec 24) = x.extractLsb' 0 6 := by
    apply BitVec.eq_of_getLsbD_eq
    intro i hi
    rw [BitVec.getLsbD_extractLsb', getLsbD_group, BitVec.getLsbD_extractLsb']
    interval_cases i <;> rfl
  rw [enc4, h1, h2, h3, h4]

/-- The byte two more bits complete (`DNB` = 6 before the symbol). -/
theorem topByte_twelve (a v : BitVec 6) : topByte (a ++ v) 12 = a ++ v.extractLsb' 4 2 := by
  apply BitVec.eq_of_getLsbD_eq
  intro i hi
  rw [topByte, BitVec.getLsbD_extractLsb', getLsbD_temporary, show (a ++ v.extractLsb' 4 2 : BitVec 8).getLsbD i = _
    from BitVec.getLsbD_append, BitVec.getLsbD_extractLsb']
  interval_cases i <;> simp

/-- The byte four more bits complete (`DNB` = 4 before the symbol). -/
theorem topByte_ten (a v : BitVec 6) : topByte (a ++ v) 10 = a.extractLsb' 0 4 ++ v.extractLsb' 2 4 := by
  apply BitVec.eq_of_getLsbD_eq
  intro i hi
  rw [topByte, BitVec.getLsbD_extractLsb', getLsbD_temporary,
    show (a.extractLsb' 0 4 ++ v.extractLsb' 2 4 : BitVec 8).getLsbD i = _ from BitVec.getLsbD_append,
    BitVec.getLsbD_extractLsb', BitVec.getLsbD_extractLsb']
  interval_cases i <;> simp

/-- The byte a whole symbol completes (`DNB` = 2 before the symbol). -/
theorem topByte_eight (a v : BitVec 6) : topByte (a ++ v) 8 = a.extractLsb' 0 2 ++ v := by
  apply BitVec.eq_of_getLsbD_eq
  intro i hi
  rw [topByte, BitVec.getLsbD_extractLsb', getLsbD_temporary,
    show (a.extractLsb' 0 2 ++ v : BitVec 8).getLsbD i = _ from BitVec.getLsbD_append, BitVec.getLsbD_extractLsb']
  interval_cases i <;> simp

/-- The temporary as a number: the held bits above the new six. -/
theorem toNat_temporary (a v : BitVec 6) : (a ++ v : BitVec 12).toNat = a.toNat * 2 ^ 6 + v.toNat := by
  rw [show (a ++ v : BitVec 12).toNat = a.toNat <<< 6 ||| v.toNat from BitVec.toNat_append a v,
    ← Nat.shiftLeft_add_eq_or_of_lt v.isLt, Nat.shiftLeft_eq]

/-- What a symbol leaves in `DACC`, as a number. -/
theorem toNat_lowBits (t : BitVec 12) (n : Nat) (h : n ≤ 6) : (lowBits t n).toNat = t.toNat % 2 ^ n := by
  have h1 : t.toNat % 2 ^ n < 2 ^ n := Nat.mod_lt _ (Nat.two_pow_pos n)
  have h2 : 2 ^ n ≤ 2 ^ 6 := Nat.pow_le_pow_right (by decide) h
  rw [lowBits, BitVec.toNat_ofNat, Nat.mod_eq_of_lt (lt_of_lt_of_le h1 h2)]

end Sys2Proof.Machine
end

