-- ==== Sys2Proof/Laws/State.lean ====
section
/-! SUPPORT. What each named update of the state leaves in each field: one lemma per field per update, so that no proof
unfolds a record update. -/

namespace Sys2Proof.Machine

variable (s : State)

/-! ### beginAccess -/

@[simp] theorem beginAccess_cfg (rest : List HostEvent) : (beginAccess rest s).cfg = s.cfg := rfl
@[simp] theorem beginAccess_phase (rest : List HostEvent) : (beginAccess rest s).phase = s.phase := rfl
@[simp] theorem beginAccess_opr (rest : List HostEvent) : (beginAccess rest s).opr = s.opr := rfl
@[simp] theorem beginAccess_dkr (rest : List HostEvent) : (beginAccess rest s).dkr = s.dkr := rfl
@[simp] theorem beginAccess_ia (rest : List HostEvent) : (beginAccess rest s).ia = s.ia := rfl
@[simp] theorem beginAccess_perr (rest : List HostEvent) : (beginAccess rest s).perr = s.perr := rfl
@[simp] theorem beginAccess_ebuf (rest : List HostEvent) : (beginAccess rest s).ebuf = s.ebuf := rfl
@[simp] theorem beginAccess_ecnt (rest : List HostEvent) : (beginAccess rest s).ecnt = s.ecnt := rfl
@[simp] theorem beginAccess_dacc (rest : List HostEvent) : (beginAccess rest s).dacc = s.dacc := rfl
@[simp] theorem beginAccess_dnb (rest : List HostEvent) : (beginAccess rest s).dnb = s.dnb := rfl
@[simp] theorem beginAccess_dstop (rest : List HostEvent) : (beginAccess rest s).dstop = s.dstop := rfl
@[simp] theorem beginAccess_kidx (rest : List HostEvent) : (beginAccess rest s).kidx = s.kidx := rfl
@[simp] theorem beginAccess_klen (rest : List HostEvent) : (beginAccess rest s).klen = s.klen := rfl
@[simp] theorem beginAccess_key (rest : List HostEvent) : (beginAccess rest s).key = s.key := rfl
@[simp] theorem beginAccess_oq (rest : List HostEvent) : (beginAccess rest s).oq = s.oq := rfl
@[simp] theorem beginAccess_rdata (rest : List HostEvent) : (beginAccess rest s).rdata = none := rfl
@[simp] theorem beginAccess_host (rest : List HostEvent) : (beginAccess rest s).host = rest := rfl

/-! ### respond -/

@[simp] theorem respond_cfg (v : Byte) : (respond v s).cfg = s.cfg := rfl
@[simp] theorem respond_phase (v : Byte) : (respond v s).phase = s.phase := rfl
@[simp] theorem respond_opr (v : Byte) : (respond v s).opr = s.opr := rfl
@[simp] theorem respond_dkr (v : Byte) : (respond v s).dkr = s.dkr := rfl
@[simp] theorem respond_ia (v : Byte) : (respond v s).ia = s.ia := rfl
@[simp] theorem respond_perr (v : Byte) : (respond v s).perr = s.perr := rfl
@[simp] theorem respond_ebuf (v : Byte) : (respond v s).ebuf = s.ebuf := rfl
@[simp] theorem respond_ecnt (v : Byte) : (respond v s).ecnt = s.ecnt := rfl
@[simp] theorem respond_dacc (v : Byte) : (respond v s).dacc = s.dacc := rfl
@[simp] theorem respond_dnb (v : Byte) : (respond v s).dnb = s.dnb := rfl
@[simp] theorem respond_dstop (v : Byte) : (respond v s).dstop = s.dstop := rfl
@[simp] theorem respond_kidx (v : Byte) : (respond v s).kidx = s.kidx := rfl
@[simp] theorem respond_klen (v : Byte) : (respond v s).klen = s.klen := rfl
@[simp] theorem respond_key (v : Byte) : (respond v s).key = s.key := rfl
@[simp] theorem respond_oq (v : Byte) : (respond v s).oq = s.oq := rfl
@[simp] theorem respond_rdata (v : Byte) : (respond v s).rdata = some v := rfl
@[simp] theorem respond_host (v : Byte) : (respond v s).host = s.host := rfl

/-! ### emit -/

@[simp] theorem emit_cfg (v : Byte) : (emit v s).cfg = s.cfg := rfl
@[simp] theorem emit_phase (v : Byte) : (emit v s).phase = s.phase := rfl
@[simp] theorem emit_opr (v : Byte) : (emit v s).opr = s.opr := rfl
@[simp] theorem emit_dkr (v : Byte) : (emit v s).dkr = s.dkr := rfl
@[simp] theorem emit_ia (v : Byte) : (emit v s).ia = s.ia := rfl
@[simp] theorem emit_perr (v : Byte) : (emit v s).perr = s.perr := rfl
@[simp] theorem emit_ebuf (v : Byte) : (emit v s).ebuf = s.ebuf := rfl
@[simp] theorem emit_ecnt (v : Byte) : (emit v s).ecnt = s.ecnt := rfl
@[simp] theorem emit_dacc (v : Byte) : (emit v s).dacc = s.dacc := rfl
@[simp] theorem emit_dnb (v : Byte) : (emit v s).dnb = s.dnb := rfl
@[simp] theorem emit_dstop (v : Byte) : (emit v s).dstop = s.dstop := rfl
@[simp] theorem emit_kidx (v : Byte) : (emit v s).kidx = s.kidx := rfl
@[simp] theorem emit_klen (v : Byte) : (emit v s).klen = s.klen := rfl
@[simp] theorem emit_key (v : Byte) : (emit v s).key = s.key := rfl
@[simp] theorem emit_oq (v : Byte) : (emit v s).oq = s.oq ++ [v] := rfl
@[simp] theorem emit_rdata (v : Byte) : (emit v s).rdata = s.rdata := rfl
@[simp] theorem emit_host (v : Byte) : (emit v s).host = s.host := rfl

/-! ### emitAll -/

@[simp] theorem emitAll_cfg (vs : List Byte) : (emitAll vs s).cfg = s.cfg := rfl
@[simp] theorem emitAll_phase (vs : List Byte) : (emitAll vs s).phase = s.phase := rfl
@[simp] theorem emitAll_opr (vs : List Byte) : (emitAll vs s).opr = s.opr := rfl
@[simp] theorem emitAll_dkr (vs : List Byte) : (emitAll vs s).dkr = s.dkr := rfl
@[simp] theorem emitAll_ia (vs : List Byte) : (emitAll vs s).ia = s.ia := rfl
@[simp] theorem emitAll_perr (vs : List Byte) : (emitAll vs s).perr = s.perr := rfl
@[simp] theorem emitAll_ebuf (vs : List Byte) : (emitAll vs s).ebuf = s.ebuf := rfl
@[simp] theorem emitAll_ecnt (vs : List Byte) : (emitAll vs s).ecnt = s.ecnt := rfl
@[simp] theorem emitAll_dacc (vs : List Byte) : (emitAll vs s).dacc = s.dacc := rfl
@[simp] theorem emitAll_dnb (vs : List Byte) : (emitAll vs s).dnb = s.dnb := rfl
@[simp] theorem emitAll_dstop (vs : List Byte) : (emitAll vs s).dstop = s.dstop := rfl
@[simp] theorem emitAll_kidx (vs : List Byte) : (emitAll vs s).kidx = s.kidx := rfl
@[simp] theorem emitAll_klen (vs : List Byte) : (emitAll vs s).klen = s.klen := rfl
@[simp] theorem emitAll_key (vs : List Byte) : (emitAll vs s).key = s.key := rfl
@[simp] theorem emitAll_oq (vs : List Byte) : (emitAll vs s).oq = s.oq ++ vs := rfl
@[simp] theorem emitAll_rdata (vs : List Byte) : (emitAll vs s).rdata = s.rdata := rfl
@[simp] theorem emitAll_host (vs : List Byte) : (emitAll vs s).host = s.host := rfl

/-! ### raiseInvalidArgument -/

@[simp] theorem raiseInvalidArgument_cfg : (raiseInvalidArgument s).cfg = s.cfg := rfl
@[simp] theorem raiseInvalidArgument_phase : (raiseInvalidArgument s).phase = s.phase := rfl
@[simp] theorem raiseInvalidArgument_opr : (raiseInvalidArgument s).opr = s.opr := rfl
@[simp] theorem raiseInvalidArgument_dkr : (raiseInvalidArgument s).dkr = s.dkr := rfl
@[simp] theorem raiseInvalidArgument_ia : (raiseInvalidArgument s).ia = true := rfl
@[simp] theorem raiseInvalidArgument_perr : (raiseInvalidArgument s).perr = s.perr := rfl
@[simp] theorem raiseInvalidArgument_ebuf : (raiseInvalidArgument s).ebuf = s.ebuf := rfl
@[simp] theorem raiseInvalidArgument_ecnt : (raiseInvalidArgument s).ecnt = s.ecnt := rfl
@[simp] theorem raiseInvalidArgument_dacc : (raiseInvalidArgument s).dacc = s.dacc := rfl
@[simp] theorem raiseInvalidArgument_dnb : (raiseInvalidArgument s).dnb = s.dnb := rfl
@[simp] theorem raiseInvalidArgument_dstop : (raiseInvalidArgument s).dstop = s.dstop := rfl
@[simp] theorem raiseInvalidArgument_kidx : (raiseInvalidArgument s).kidx = s.kidx := rfl
@[simp] theorem raiseInvalidArgument_klen : (raiseInvalidArgument s).klen = s.klen := rfl
@[simp] theorem raiseInvalidArgument_key : (raiseInvalidArgument s).key = s.key := rfl
@[simp] theorem raiseInvalidArgument_oq : (raiseInvalidArgument s).oq = s.oq := rfl
@[simp] theorem raiseInvalidArgument_rdata : (raiseInvalidArgument s).rdata = s.rdata := rfl
@[simp] theorem raiseInvalidArgument_host : (raiseInvalidArgument s).host = s.host := rfl

/-! ### raiseProtocolError -/

@[simp] theorem raiseProtocolError_cfg (c : Cause) : (raiseProtocolError c s).cfg = s.cfg := rfl
@[simp] theorem raiseProtocolError_phase (c : Cause) : (raiseProtocolError c s).phase = s.phase := rfl
@[simp] theorem raiseProtocolError_opr (c : Cause) : (raiseProtocolError c s).opr = s.opr := rfl
@[simp] theorem raiseProtocolError_dkr (c : Cause) : (raiseProtocolError c s).dkr = s.dkr := rfl
@[simp] theorem raiseProtocolError_ia (c : Cause) : (raiseProtocolError c s).ia = s.ia := rfl
@[simp] theorem raiseProtocolError_perr (c : Cause) : (raiseProtocolError c s).perr = true := rfl
@[simp] theorem raiseProtocolError_ebuf (c : Cause) : (raiseProtocolError c s).ebuf = s.ebuf := rfl
@[simp] theorem raiseProtocolError_ecnt (c : Cause) : (raiseProtocolError c s).ecnt = s.ecnt := rfl
@[simp] theorem raiseProtocolError_dacc (c : Cause) : (raiseProtocolError c s).dacc = s.dacc := rfl
@[simp] theorem raiseProtocolError_dnb (c : Cause) : (raiseProtocolError c s).dnb = s.dnb := rfl
@[simp] theorem raiseProtocolError_dstop (c : Cause) : (raiseProtocolError c s).dstop = s.dstop := rfl
@[simp] theorem raiseProtocolError_kidx (c : Cause) : (raiseProtocolError c s).kidx = s.kidx := rfl
@[simp] theorem raiseProtocolError_klen (c : Cause) : (raiseProtocolError c s).klen = s.klen := rfl
@[simp] theorem raiseProtocolError_key (c : Cause) : (raiseProtocolError c s).key = s.key := rfl
@[simp] theorem raiseProtocolError_oq (c : Cause) : (raiseProtocolError c s).oq = s.oq := rfl
@[simp] theorem raiseProtocolError_rdata (c : Cause) : (raiseProtocolError c s).rdata = s.rdata := rfl
@[simp] theorem raiseProtocolError_host (c : Cause) : (raiseProtocolError c s).host = s.host := rfl

/-! ### refuseRead -/

@[simp] theorem refuseRead_cfg (c : Cause) : (refuseRead c s).cfg = s.cfg := rfl
@[simp] theorem refuseRead_phase (c : Cause) : (refuseRead c s).phase = s.phase := rfl
@[simp] theorem refuseRead_opr (c : Cause) : (refuseRead c s).opr = s.opr := rfl
@[simp] theorem refuseRead_dkr (c : Cause) : (refuseRead c s).dkr = s.dkr := rfl
@[simp] theorem refuseRead_ia (c : Cause) : (refuseRead c s).ia = s.ia := rfl
@[simp] theorem refuseRead_perr (c : Cause) : (refuseRead c s).perr = true := rfl
@[simp] theorem refuseRead_ebuf (c : Cause) : (refuseRead c s).ebuf = s.ebuf := rfl
@[simp] theorem refuseRead_ecnt (c : Cause) : (refuseRead c s).ecnt = s.ecnt := rfl
@[simp] theorem refuseRead_dacc (c : Cause) : (refuseRead c s).dacc = s.dacc := rfl
@[simp] theorem refuseRead_dnb (c : Cause) : (refuseRead c s).dnb = s.dnb := rfl
@[simp] theorem refuseRead_dstop (c : Cause) : (refuseRead c s).dstop = s.dstop := rfl
@[simp] theorem refuseRead_kidx (c : Cause) : (refuseRead c s).kidx = s.kidx := rfl
@[simp] theorem refuseRead_klen (c : Cause) : (refuseRead c s).klen = s.klen := rfl
@[simp] theorem refuseRead_key (c : Cause) : (refuseRead c s).key = s.key := rfl
@[simp] theorem refuseRead_oq (c : Cause) : (refuseRead c s).oq = s.oq := rfl
@[simp] theorem refuseRead_rdata (c : Cause) : (refuseRead c s).rdata = some 0x00 := rfl
@[simp] theorem refuseRead_host (c : Cause) : (refuseRead c s).host = s.host := rfl

/-! ### acknowledge -/

@[simp] theorem acknowledge_cfg (m : Byte) : (acknowledge m s).cfg = s.cfg := rfl
@[simp] theorem acknowledge_phase (m : Byte) : (acknowledge m s).phase = s.phase := rfl
@[simp] theorem acknowledge_opr (m : Byte) : (acknowledge m s).opr = s.opr := rfl
@[simp] theorem acknowledge_dkr (m : Byte) : (acknowledge m s).dkr = s.dkr := rfl
@[simp] theorem acknowledge_ia (m : Byte) : (acknowledge m s).ia = (s.ia && !m.getLsbD 4) := rfl
@[simp] theorem acknowledge_perr (m : Byte) : (acknowledge m s).perr = (s.perr && !m.getLsbD 5) := rfl
@[simp] theorem acknowledge_ebuf (m : Byte) : (acknowledge m s).ebuf = s.ebuf := rfl
@[simp] theorem acknowledge_ecnt (m : Byte) : (acknowledge m s).ecnt = s.ecnt := rfl
@[simp] theorem acknowledge_dacc (m : Byte) : (acknowledge m s).dacc = s.dacc := rfl
@[simp] theorem acknowledge_dnb (m : Byte) : (acknowledge m s).dnb = s.dnb := rfl
@[simp] theorem acknowledge_dstop (m : Byte) : (acknowledge m s).dstop = s.dstop := rfl
@[simp] theorem acknowledge_kidx (m : Byte) : (acknowledge m s).kidx = s.kidx := rfl
@[simp] theorem acknowledge_klen (m : Byte) : (acknowledge m s).klen = s.klen := rfl
@[simp] theorem acknowledge_key (m : Byte) : (acknowledge m s).key = s.key := rfl
@[simp] theorem acknowledge_oq (m : Byte) : (acknowledge m s).oq = s.oq := rfl
@[simp] theorem acknowledge_rdata (m : Byte) : (acknowledge m s).rdata = s.rdata := rfl
@[simp] theorem acknowledge_host (m : Byte) : (acknowledge m s).host = s.host := rfl

/-! ### writeKey -/

@[simp] theorem writeKey_cfg (i v : Byte) : (writeKey i v s).cfg = s.cfg := rfl
@[simp] theorem writeKey_phase (i v : Byte) : (writeKey i v s).phase = s.phase := rfl
@[simp] theorem writeKey_opr (i v : Byte) : (writeKey i v s).opr = s.opr := rfl
@[simp] theorem writeKey_dkr (i v : Byte) : (writeKey i v s).dkr = s.dkr := rfl
@[simp] theorem writeKey_ia (i v : Byte) : (writeKey i v s).ia = s.ia := rfl
@[simp] theorem writeKey_perr (i v : Byte) : (writeKey i v s).perr = s.perr := rfl
@[simp] theorem writeKey_ebuf (i v : Byte) : (writeKey i v s).ebuf = s.ebuf := rfl
@[simp] theorem writeKey_ecnt (i v : Byte) : (writeKey i v s).ecnt = s.ecnt := rfl
@[simp] theorem writeKey_dacc (i v : Byte) : (writeKey i v s).dacc = s.dacc := rfl
@[simp] theorem writeKey_dnb (i v : Byte) : (writeKey i v s).dnb = s.dnb := rfl
@[simp] theorem writeKey_dstop (i v : Byte) : (writeKey i v s).dstop = s.dstop := rfl
@[simp] theorem writeKey_kidx (i v : Byte) : (writeKey i v s).kidx = s.kidx := rfl
@[simp] theorem writeKey_klen (i v : Byte) : (writeKey i v s).klen = s.klen := rfl
@[simp] theorem writeKey_key (i v : Byte) : (writeKey i v s).key = Memory.write s.key i.toNat v := rfl
@[simp] theorem writeKey_oq (i v : Byte) : (writeKey i v s).oq = s.oq := rfl
@[simp] theorem writeKey_rdata (i v : Byte) : (writeKey i v s).rdata = s.rdata := rfl
@[simp] theorem writeKey_host (i v : Byte) : (writeKey i v s).host = s.host := rfl

/-! ### clearDatapath -/

@[simp] theorem clearDatapath_cfg : (clearDatapath s).cfg = s.cfg := rfl
@[simp] theorem clearDatapath_phase : (clearDatapath s).phase = s.phase := rfl
@[simp] theorem clearDatapath_opr : (clearDatapath s).opr = s.opr := rfl
@[simp] theorem clearDatapath_dkr : (clearDatapath s).dkr = s.dkr := rfl
@[simp] theorem clearDatapath_ia : (clearDatapath s).ia = s.ia := rfl
@[simp] theorem clearDatapath_perr : (clearDatapath s).perr = s.perr := rfl
@[simp] theorem clearDatapath_ebuf : (clearDatapath s).ebuf = 0x0000 := rfl
@[simp] theorem clearDatapath_ecnt : (clearDatapath s).ecnt = 0 := rfl
@[simp] theorem clearDatapath_dacc : (clearDatapath s).dacc = 0 := rfl
@[simp] theorem clearDatapath_dnb : (clearDatapath s).dnb = 0 := rfl
@[simp] theorem clearDatapath_dstop : (clearDatapath s).dstop = false := rfl
@[simp] theorem clearDatapath_kidx : (clearDatapath s).kidx = 0 := rfl
@[simp] theorem clearDatapath_klen : (clearDatapath s).klen = s.klen := rfl
@[simp] theorem clearDatapath_key : (clearDatapath s).key = s.key := rfl
@[simp] theorem clearDatapath_oq : (clearDatapath s).oq = s.oq := rfl
@[simp] theorem clearDatapath_rdata : (clearDatapath s).rdata = s.rdata := rfl
@[simp] theorem clearDatapath_host : (clearDatapath s).host = s.host := rfl

/-! ### accept -/

@[simp] theorem accept_cfg (op : Op) (dk : Bool) : (accept op dk s).cfg = s.cfg := rfl
@[simp] theorem accept_phase (op : Op) (dk : Bool) : (accept op dk s).phase = .run := rfl
@[simp] theorem accept_opr (op : Op) (dk : Bool) : (accept op dk s).opr = opCode op := rfl
@[simp] theorem accept_dkr (op : Op) (dk : Bool) : (accept op dk s).dkr = dk := rfl
@[simp] theorem accept_ia (op : Op) (dk : Bool) : (accept op dk s).ia = s.ia := rfl
@[simp] theorem accept_perr (op : Op) (dk : Bool) : (accept op dk s).perr = s.perr := rfl
@[simp] theorem accept_ebuf (op : Op) (dk : Bool) : (accept op dk s).ebuf = 0x0000 := rfl
@[simp] theorem accept_ecnt (op : Op) (dk : Bool) : (accept op dk s).ecnt = 0 := rfl
@[simp] theorem accept_dacc (op : Op) (dk : Bool) : (accept op dk s).dacc = 0 := rfl
@[simp] theorem accept_dnb (op : Op) (dk : Bool) : (accept op dk s).dnb = 0 := rfl
@[simp] theorem accept_dstop (op : Op) (dk : Bool) : (accept op dk s).dstop = false := rfl
@[simp] theorem accept_kidx (op : Op) (dk : Bool) : (accept op dk s).kidx = 0 := rfl
@[simp] theorem accept_klen (op : Op) (dk : Bool) : (accept op dk s).klen = s.klen := rfl
@[simp] theorem accept_key (op : Op) (dk : Bool) : (accept op dk s).key = s.key := rfl
@[simp] theorem accept_oq (op : Op) (dk : Bool) : (accept op dk s).oq = s.oq := rfl
@[simp] theorem accept_rdata (op : Op) (dk : Bool) : (accept op dk s).rdata = s.rdata := rfl
@[simp] theorem accept_host (op : Op) (dk : Bool) : (accept op dk s).host = s.host := rfl

/-! ### hardReset -/

@[simp] theorem hardReset_cfg : (hardReset s).cfg = s.cfg := rfl
@[simp] theorem hardReset_phase : (hardReset s).phase = .idle := rfl
@[simp] theorem hardReset_opr : (hardReset s).opr = 0 := rfl
@[simp] theorem hardReset_dkr : (hardReset s).dkr = false := rfl
@[simp] theorem hardReset_ia : (hardReset s).ia = false := rfl
@[simp] theorem hardReset_perr : (hardReset s).perr = false := rfl
@[simp] theorem hardReset_ebuf : (hardReset s).ebuf = 0x0000 := rfl
@[simp] theorem hardReset_ecnt : (hardReset s).ecnt = 0 := rfl
@[simp] theorem hardReset_dacc : (hardReset s).dacc = 0 := rfl
@[simp] theorem hardReset_dnb : (hardReset s).dnb = 0 := rfl
@[simp] theorem hardReset_dstop : (hardReset s).dstop = false := rfl
@[simp] theorem hardReset_kidx : (hardReset s).kidx = 0 := rfl
@[simp] theorem hardReset_klen : (hardReset s).klen = 0x00 := rfl
@[simp] theorem hardReset_key : (hardReset s).key = [] := rfl
@[simp] theorem hardReset_oq : (hardReset s).oq = [] := rfl
@[simp] theorem hardReset_rdata : (hardReset s).rdata = none := rfl
@[simp] theorem hardReset_host : (hardReset s).host = s.host := rfl

/-! ### endInput -/

@[simp] theorem endInput_cfg : (endInput s).cfg = s.cfg := rfl
@[simp] theorem endInput_phase : (endInput s).phase = if s.oq = [] then .idle else .drain := rfl
@[simp] theorem endInput_opr : (endInput s).opr = s.opr := rfl
@[simp] theorem endInput_dkr : (endInput s).dkr = s.dkr := rfl
@[simp] theorem endInput_ia : (endInput s).ia = s.ia := rfl
@[simp] theorem endInput_perr : (endInput s).perr = s.perr := rfl
@[simp] theorem endInput_ebuf : (endInput s).ebuf = s.ebuf := rfl
@[simp] theorem endInput_ecnt : (endInput s).ecnt = s.ecnt := rfl
@[simp] theorem endInput_dacc : (endInput s).dacc = s.dacc := rfl
@[simp] theorem endInput_dnb : (endInput s).dnb = s.dnb := rfl
@[simp] theorem endInput_dstop : (endInput s).dstop = s.dstop := rfl
@[simp] theorem endInput_kidx : (endInput s).kidx = s.kidx := rfl
@[simp] theorem endInput_klen : (endInput s).klen = s.klen := rfl
@[simp] theorem endInput_key : (endInput s).key = s.key := rfl
@[simp] theorem endInput_oq : (endInput s).oq = s.oq := rfl
@[simp] theorem endInput_rdata : (endInput s).rdata = s.rdata := rfl
@[simp] theorem endInput_host : (endInput s).host = s.host := rfl

/-! ### dropHead -/

@[simp] theorem dropHead_cfg (rest : List Byte) : (dropHead rest s).cfg = s.cfg := rfl
@[simp] theorem dropHead_phase (rest : List Byte) : (dropHead rest s).phase = if s.phase = .drain ∧ rest = [] then .idle else s.phase := rfl
@[simp] theorem dropHead_opr (rest : List Byte) : (dropHead rest s).opr = s.opr := rfl
@[simp] theorem dropHead_dkr (rest : List Byte) : (dropHead rest s).dkr = s.dkr := rfl
@[simp] theorem dropHead_ia (rest : List Byte) : (dropHead rest s).ia = s.ia := rfl
@[simp] theorem dropHead_perr (rest : List Byte) : (dropHead rest s).perr = s.perr := rfl
@[simp] theorem dropHead_ebuf (rest : List Byte) : (dropHead rest s).ebuf = s.ebuf := rfl
@[simp] theorem dropHead_ecnt (rest : List Byte) : (dropHead rest s).ecnt = s.ecnt := rfl
@[simp] theorem dropHead_dacc (rest : List Byte) : (dropHead rest s).dacc = s.dacc := rfl
@[simp] theorem dropHead_dnb (rest : List Byte) : (dropHead rest s).dnb = s.dnb := rfl
@[simp] theorem dropHead_dstop (rest : List Byte) : (dropHead rest s).dstop = s.dstop := rfl
@[simp] theorem dropHead_kidx (rest : List Byte) : (dropHead rest s).kidx = s.kidx := rfl
@[simp] theorem dropHead_klen (rest : List Byte) : (dropHead rest s).klen = s.klen := rfl
@[simp] theorem dropHead_key (rest : List Byte) : (dropHead rest s).key = s.key := rfl
@[simp] theorem dropHead_oq (rest : List Byte) : (dropHead rest s).oq = rest := rfl
@[simp] theorem dropHead_rdata (rest : List Byte) : (dropHead rest s).rdata = s.rdata := rfl
@[simp] theorem dropHead_host (rest : List Byte) : (dropHead rest s).host = s.host := rfl

end Sys2Proof.Machine
end

