-- ==== Sys2Proof/Laws/Commands.lean ====
section
/-! SUPPORT. What a command write can do, said once. -/

namespace Sys2Proof.Machine

theorem opOfCode_opCode (op : Op) : opOfCode (opCode op) = some op := by cases op <;> decide

/-- The code of an operation is the only one that selects it. -/
theorem opCode_of_opOfCode (c : BitVec 3) (op : Op) (h : opOfCode c = some op) : opCode op = c := by
  revert op
  revert c
  decide

theorem cmdOp_cmdByte (op : Op) (dk : Bool) : cmdOp (cmdByte op dk) = opCode op := by
  cases op <;> cases dk <;> decide

theorem cmdDk_cmdByte (op : Op) (dk : Bool) : cmdDk (cmdByte op dk) = dk := by
  cases op <;> cases dk <;> decide

theorem cmdOperation_cmdByte (op : Op) (dk : Bool) : cmdOperation (cmdByte op dk) = some op := by
  cases op <;> cases dk <;> decide

theorem busy_eq_false (s : State) : busy s = false ↔ s.phase = .idle := by
  simp [busy]

theorem busy_eq_true (s : State) : busy s = true ↔ s.phase ≠ .idle := by
  simp [busy]

/-- The key check fails exactly on a keyed operation with `DK = 0` and `KLEN = 0` (R179). -/
theorem checkKeyAndAccept_cases (op : Op) (dk : Bool) (s : State) :
    (keyed op = true ∧ dk = false ∧ s.klen = 0x00#8 ∧ checkKeyAndAccept op dk s = raiseInvalidArgument s) ∨
    ((keyed op = false ∨ dk = true ∨ s.klen ≠ 0x00#8) ∧ checkKeyAndAccept op dk s = accept op dk s) := by
  unfold checkKeyAndAccept
  cases hk : keyed op <;> cases dk <;> by_cases hl : s.klen = 0x00#8 <;> simp [hl]

/-- Everything `START op` can do (R178): dropped, failed on the empty key, or accepted. -/
theorem startCommand_cases (op : Op) (dk : Bool) (s : State) :
    (s.phase ≠ .idle ∧ startCommand op dk s = raiseProtocolError .p1 s) ∨
    (s.phase = .idle ∧ keyed op = true ∧ dk = false ∧ s.klen = 0x00#8 ∧
      startCommand op dk s = raiseInvalidArgument s) ∨
    (s.phase = .idle ∧ (keyed op = false ∨ dk = true ∨ s.klen ≠ 0x00#8) ∧
      startCommand op dk s = accept op dk s) := by
  unfold startCommand
  cases hb : busy s with
  | true => exact .inl ⟨(busy_eq_true s).mp hb, rfl⟩
  | false =>
    have hp := (busy_eq_false s).mp hb
    rcases checkKeyAndAccept_cases op dk s with ⟨hk, hd, hl, he⟩ | ⟨hk, he⟩
    · exact .inr (.inl ⟨hp, hk, hd, hl, he⟩)
    · exact .inr (.inr ⟨hp, hk, he⟩)

/-- Everything a `CTRL` write can do (R178): dropped by P1 or P2, or what the command of its byte does. -/
theorem commandWrite_cases (c : Byte) (s : State) :
    (s.phase ≠ .idle ∧ commandWrite c s = raiseProtocolError .p1 s) ∨
    (s.phase = .idle ∧ cmdOperation c = none ∧ commandWrite c s = raiseProtocolError .p2 s) ∨
    (∃ op, s.phase = .idle ∧ cmdOperation c = some op ∧ commandWrite c s = startCommand op (cmdDk c) s) := by
  unfold commandWrite startCommand
  cases hb : busy s with
  | true => exact .inl ⟨(busy_eq_true s).mp hb, rfl⟩
  | false =>
    have hp := (busy_eq_false s).mp hb
    cases hc : cmdOperation c with
    | none => exact .inr (.inl ⟨hp, rfl, rfl⟩)
    | some op => exact .inr (.inr ⟨op, hp, rfl, rfl⟩)

end Sys2Proof.Machine
end

