-- ==== Sys2Proof/Laws/Datapath.lean ====
section
/-! SUPPORT. What each data step can do, said once. -/

namespace Sys2Proof.Machine

/-- Everything `EncStep` can do (R124). -/
theorem encStep_cases (x : Byte) (s : State) :
    (s.ecnt = 0#2 ∧ encStep x s = { s with ebuf := x ++ ebufLo s, ecnt := 1#2 }) ∨
    (s.ecnt = 1#2 ∧ encStep x s = { s with ebuf := ebufHi s ++ x, ecnt := 2#2 }) ∨
    (s.ecnt ≠ 0#2 ∧ s.ecnt ≠ 1#2 ∧
      encStep x s = { s with oq := s.oq ++ enc4 (s.ebuf ++ x), ecnt := 0#2 }) := by
  unfold encStep
  split
  · exact .inl ⟨‹_›, rfl⟩
  · split
    · exact .inr (.inl ⟨‹_›, rfl⟩)
    · exact .inr (.inr ⟨‹_›, ‹_›, rfl⟩)

/-- Everything `EncFlush` can do (R126). -/
theorem encFlush_cases (s : State) :
    (s.ecnt = 1#2 ∧ encFlush s = { s with oq := s.oq ++ encOne (ebufHi s), ecnt := 0#2 }) ∨
    (s.ecnt = 2#2 ∧ encFlush s = { s with oq := s.oq ++ encTwo (ebufHi s) (ebufLo s), ecnt := 0#2 }) ∨
    (s.ecnt ≠ 1#2 ∧ s.ecnt ≠ 2#2 ∧ encFlush s = { s with ecnt := 0#2 }) := by
  unfold encFlush
  split
  · exact .inl ⟨‹_›, rfl⟩
  · split
    · exact .inr (.inl ⟨‹_›, rfl⟩)
    · exact .inr (.inr ⟨‹_›, ‹_›, rfl⟩)

/-- Everything `DecStep` can do (R146): nothing (stopped, or a skipped character), the stop, or a symbol. -/
theorem decStep_cases (c : Byte) (s : State) :
    ((s.dstop = true ∨ cls c = .skip) ∧ decStep c s = (none, s)) ∨
    (s.dstop = false ∧ cls c = .pad ∧ decStep c s = (none, { s with dstop := true })) ∨
    (∃ v, s.dstop = false ∧ cls c = .sym v ∧ decStep c s = decSymbol v s) := by
  unfold decStep
  cases hd : s.dstop with
  | true => exact .inl ⟨.inl rfl, rfl⟩
  | false =>
    cases hc : cls c with
    | sym v => exact .inr (.inr ⟨v, rfl, rfl, rfl⟩)
    | pad => exact .inr (.inl ⟨rfl, rfl, rfl⟩)
    | skip => exact .inl ⟨.inr rfl, rfl⟩

/-- A symbol gives a byte exactly when two or more bits are held (R146). -/
theorem decSymbol_cases (v : BitVec 6) (s : State) :
    (2 ≤ s.dnb.toNat ∧ decSymbol v s =
      (some (topByte (s.dacc ++ v) (s.dnb.toNat + 6)),
        { s with dacc := lowBits (s.dacc ++ v) (s.dnb.toNat - 2), dnb := BitVec.ofNat 3 (s.dnb.toNat - 2) })) ∨
    (s.dnb.toNat < 2 ∧ decSymbol v s =
      (none, { s with dacc := v, dnb := BitVec.ofNat 3 (s.dnb.toNat + 6) })) := by
  simp only [decSymbol]
  by_cases h : 2 ≤ s.dnb.toNat
  · have h8 : 8 ≤ s.dnb.toNat + 6 := by omega
    have h2 : s.dnb.toNat + 6 - 8 = s.dnb.toNat - 2 := by omega
    exact .inl ⟨h, by rw [if_pos h8, h2]⟩
  · have h8 : ¬ 8 ≤ s.dnb.toNat + 6 := by omega
    exact .inr ⟨by omega, by rw [if_neg h8]⟩

/-- The cipher changes `KIDX` only (R165). -/
theorem xorStep_eq (b : Byte) (s : State) :
    xorStep b s = (b ^^^ ek s.dkr s.kidx s, { s with kidx := (xorStep b s).2.kidx }) := rfl

/-- The cyclic index after a byte (R165). -/
theorem xorStep_kidx (b : Byte) (s : State) :
    (s.kidx.toNat + 1 = eklen s.dkr s ∧ (xorStep b s).2.kidx = 0#8) ∨
    (s.kidx.toNat + 1 ≠ eklen s.dkr s ∧ (xorStep b s).2.kidx = s.kidx + 1#8) := by
  simp only [xorStep]
  split
  · exact .inl ⟨‹_›, rfl⟩
  · exact .inr ⟨‹_›, rfl⟩

/-- The sub-units the five values of `OPR` route an item through (R188). -/
theorem item_of_opr (v : Byte) (s : State) :
    (s.opr = 1#3 → item v s = encStep v s) ∧
    (s.opr = 2#3 → item v s = emitSome (decStep v s).1 (decStep v s).2) ∧
    (s.opr = 3#3 → item v s = emit (xorStep v s).1 (xorStep v s).2) ∧
    (s.opr = 4#3 → item v s = encStep (xorStep v s).1 (xorStep v s).2) ∧
    (s.opr = 5#3 → item v s = cipherSome (decStep v s).1 (decStep v s).2) := by
  refine ⟨?_, ?_, ?_, ?_, ?_⟩ <;> intro h <;> simp [item, h, opOfCode]

/-- What the end of the input does for the five values of `OPR` (R189). -/
theorem flush_of_opr (s : State) :
    (s.opr = 1#3 ∨ s.opr = 4#3 → flush s = encFlush s) ∧
    (s.opr = 2#3 ∨ s.opr = 3#3 ∨ s.opr = 5#3 → flush s = s) := by
  refine ⟨fun h => ?_, fun h => ?_⟩
  · rcases h with h | h <;> simp [flush, h, opOfCode]
  · rcases h with h | h | h <;> simp [flush, h, opOfCode]

end Sys2Proof.Machine
end

