-- ==== Sys2Proof/Laws/Encoding.lean ====
section
/-! SUPPORT. The bits and the fields of an access word (30_encoding.md R93). -/

namespace Sys2Proof

/-- The bits of `WR(a, v)`. -/
theorem getLsbD_wr (a : Addr) (v : Byte) (i : Nat) :
    (wr a v).getLsbD i = if i < 8 then v.getLsbD i else if i < 17 then a.getLsbD (i - 8) else decide (i = 17) := by
  show (1#1 ++ a ++ v : BitVec (1 + 9 + 8)).getLsbD i = _
  rw [BitVec.getLsbD_append, BitVec.getLsbD_append]
  by_cases h8 : i < 8
  · simp [h8]
  · by_cases h17 : i < 17
    · have : i - 8 < 9 := by omega
      simp [h8, h17, this]
    · have : ¬ i - 8 < 9 := by omega
      simp [h8, h17, this]
      omega

/-- The bits of `RD(a)` with a D field. -/
theorem getLsbD_rdWith (a : Addr) (d : Byte) (i : Nat) :
    (rdWith a d).getLsbD i = if i < 8 then d.getLsbD i else if i < 17 then a.getLsbD (i - 8) else false := by
  show (0#1 ++ a ++ d : BitVec (1 + 9 + 8)).getLsbD i = _
  rw [BitVec.getLsbD_append, BitVec.getLsbD_append]
  by_cases h8 : i < 8
  · simp [h8]
  · by_cases h17 : i < 17
    · have : i - 8 < 9 := by omega
      simp [h8, h17, this]
    · have : ¬ i - 8 < 9 := by omega
      simp [h8, h17, this]

/-- The bits of the address of `KEY[i]`. -/
theorem getLsbD_keyAddr (i : Byte) (k : Nat) :
    (keyAddr i).getLsbD k = if k < 8 then i.getLsbD k else decide (k = 8) := by
  show (1#1 ++ i : BitVec (1 + 8)).getLsbD k = _
  rw [BitVec.getLsbD_append]
  by_cases h8 : k < 8
  · simp [h8]
  · simp [h8]
    omega

@[simp] theorem busW_wr (a : Addr) (v : Byte) : busW (wr a v) = true := by
  rw [busW, getLsbD_wr]
  rfl

@[simp] theorem busA_wr (a : Addr) (v : Byte) : busA (wr a v) = a := by
  apply BitVec.eq_of_getLsbD_eq
  intro i hi
  have : i + 8 < 17 := by omega
  simp [busA, getLsbD_wr, hi]
  omega

@[simp] theorem busD_wr (a : Addr) (v : Byte) : busD (wr a v) = v := by
  apply BitVec.eq_of_getLsbD_eq
  intro i hi
  simp [busD, getLsbD_wr, hi]

@[simp] theorem busW_rdWith (a : Addr) (d : Byte) : busW (rdWith a d) = false := by
  rw [busW, getLsbD_rdWith]
  rfl

@[simp] theorem busA_rdWith (a : Addr) (d : Byte) : busA (rdWith a d) = a := by
  apply BitVec.eq_of_getLsbD_eq
  intro i hi
  have : i + 8 < 17 := by omega
  simp [busA, getLsbD_rdWith, hi]
  omega

@[simp] theorem busD_rdWith (a : Addr) (d : Byte) : busD (rdWith a d) = d := by
  apply BitVec.eq_of_getLsbD_eq
  intro i hi
  simp [busD, getLsbD_rdWith, hi]

@[simp] theorem keyAddr_bit8 (i : Byte) : (keyAddr i).getLsbD 8 = true := by
  simp [getLsbD_keyAddr]

@[simp] theorem keyIndex_keyAddr (i : Byte) : keyIndex (keyAddr i) = i := by
  apply BitVec.eq_of_getLsbD_eq
  intro k hk
  simp [keyIndex, getLsbD_keyAddr, hk]

/-- A word is given by its three fields: direction, address and data. -/
theorem busWord_ext {w w' : BusWord} (hW : busW w = busW w') (hA : busA w = busA w') (hD : busD w = busD w') :
    w = w' := by
  apply BitVec.eq_of_getLsbD_eq
  intro i hi
  by_cases h8 : i < 8
  · have := congrArg (fun d : Byte => d.getLsbD i) hD
    simpa [busD, h8] using this
  · by_cases h17 : i < 17
    · have h9 : i - 8 < 9 := by omega
      have h8i : 8 + (i - 8) = i := by omega
      have := congrArg (fun a : Addr => a.getLsbD (i - 8)) hA
      simpa [busA, h9, h8i] using this
    · obtain rfl : i = 17 := by omega
      exact hW

end Sys2Proof
end

