-- ==== Sys2Proof/Laws/KeyStore.lean ====
section
/-! SUPPORT. The laws of the key store: a read after a write, and that every operation keeps the canonical form. -/

namespace Sys2Proof.Machine

theorem Memory.read_erase (m : Memory) (i j : Nat) :
    Memory.read (Memory.erase m i) j = if j = i then Memory.unlisted else Memory.read m j := by
  induction m with
  | nil => simp [Memory.erase, Memory.read]
  | cons c rest ih =>
    obtain ⟨k, v⟩ := c
    simp only [Memory.erase, List.filter_cons] at ih ⊢
    by_cases hk : k = i
    · subst hk
      by_cases hj : j = k
      · simp_all
      · simp [ih, hj, Memory.read, Ne.symm hj]
    · have : (k != i) = true := by simpa using hk
      simp only [this, if_true, Memory.read, ih]
      split <;> split <;> simp_all

/-- Where no entry for `i` stands, an inserted byte is read at `i` and every other index reads as before. -/
theorem Memory.read_insert (m : Memory) (i j : Nat) (v : Byte) (h : ∀ c ∈ m, c.1 ≠ i) :
    Memory.read (Memory.insert m i v) j = if j = i then v else Memory.read m j := by
  induction m with
  | nil => simp [Memory.insert, Memory.read, eq_comm]
  | cons c rest ih =>
    obtain ⟨k, w⟩ := c
    have hk : k ≠ i := h (k, w) (by simp)
    have ih := ih (fun c hc => h c (by simp [hc]))
    unfold Memory.insert
    split
    · simp [Memory.read, eq_comm]
    · simp only [Memory.read, ih]
      split <;> split <;> simp_all

theorem Memory.erase_ne (m : Memory) (i : Nat) : ∀ c ∈ Memory.erase m i, c.1 ≠ i := by
  intro c hc
  simpa using (List.mem_filter.mp hc).2

/-- A byte reads as it was last written, and a write leaves every other index alone, whatever form the list has. -/
theorem Memory.read_write (m : Memory) (i j : Nat) (v : Byte) :
    Memory.read (Memory.write m i v) j = if j = i then v else Memory.read m j := by
  unfold Memory.write
  split
  · next h => rw [Memory.read_erase, h]
  · rw [Memory.read_insert _ _ _ _ (Memory.erase_ne m i), Memory.read_erase]
    split <;> simp_all

/-- The canonical form from a bound on: what `wfFrom` says of the head and the tail. -/
theorem Memory.wfFrom_cons (lo : Option Nat) (i : Nat) (v : Byte) (rest : Memory) :
    Memory.wfFrom lo ((i, v) :: rest) = true ↔
      (∀ l ∈ lo, l < i) ∧ i < 256 ∧ v ≠ Memory.unlisted ∧ Memory.wfFrom (some i) rest = true := by
  cases lo <;> simp [Memory.wfFrom, and_assoc]

theorem Memory.wfFrom_weaken (lo lo' : Option Nat) (m : Memory) (h : ∀ l' ∈ lo', ∃ l ∈ lo, l' ≤ l)
    (hm : Memory.wfFrom lo m = true) : Memory.wfFrom lo' m = true := by
  cases m with
  | nil => cases lo' <;> rfl
  | cons c rest =>
    obtain ⟨i, v⟩ := c
    rw [Memory.wfFrom_cons] at hm ⊢
    refine ⟨fun l' hl' => ?_, hm.2⟩
    obtain ⟨l, hl, hle⟩ := h l' hl'
    exact lt_of_le_of_lt hle (hm.1 l hl)

theorem Memory.wfFrom_erase (lo : Option Nat) (m : Memory) (i : Nat) (hm : Memory.wfFrom lo m = true) :
    Memory.wfFrom lo (Memory.erase m i) = true := by
  induction m generalizing lo with
  | nil => exact hm
  | cons c rest ih =>
    obtain ⟨k, v⟩ := c
    rw [Memory.wfFrom_cons] at hm
    have ih := ih (some k) hm.2.2.2
    simp only [Memory.erase, List.filter_cons] at ih ⊢
    split
    · rw [Memory.wfFrom_cons]
      exact ⟨hm.1, hm.2.1, hm.2.2.1, ih⟩
    · exact Memory.wfFrom_weaken (some k) lo _ (fun l hl => ⟨k, rfl, le_of_lt (hm.1 l hl)⟩) ih

theorem Memory.wfFrom_insert (lo : Option Nat) (m : Memory) (i : Nat) (v : Byte) (hi : i < 256)
    (hv : v ≠ Memory.unlisted) (hlo : ∀ l ∈ lo, l < i) (hne : ∀ c ∈ m, c.1 ≠ i)
    (hm : Memory.wfFrom lo m = true) : Memory.wfFrom lo (Memory.insert m i v) = true := by
  induction m generalizing lo with
  | nil => exact (Memory.wfFrom_cons lo i v []).mpr ⟨hlo, hi, hv, rfl⟩
  | cons c rest ih =>
    obtain ⟨k, w⟩ := c
    rw [Memory.wfFrom_cons] at hm
    unfold Memory.insert
    split
    · next h =>
      rw [Memory.wfFrom_cons, Memory.wfFrom_cons]
      exact ⟨hlo, hi, hv, by simpa using h, hm.2⟩
    · next h =>
      have hk : k ≠ i := hne (k, w) (by simp)
      rw [Memory.wfFrom_cons]
      refine ⟨hm.1, hm.2.1, hm.2.2.1, ih (some k) ?_ (fun c hc => hne c (by simp [hc])) hm.2.2.2⟩
      intro l hl
      obtain rfl : k = l := by simpa using hl
      omega

/-- A write at an index of the store keeps the canonical form. -/
theorem Memory.wf_write (m : Memory) (i : Nat) (v : Byte) (hi : i < 256) (hm : Memory.wf m = true) :
    Memory.wf (Memory.write m i v) = true := by
  have he := Memory.wfFrom_erase none m i hm
  unfold Memory.write
  split
  · exact he
  · next hv => exact Memory.wfFrom_insert none _ i v hi hv (by simp) (Memory.erase_ne m i) he

/-- `KEY[j]` after `KEY[i] <- v` (R43). -/
@[simp] theorem readKey_writeKey (i j v : Byte) (s : State) :
    readKey j (writeKey i v s) = if j = i then v else readKey j s := by
  simp only [readKey, writeKey, Memory.read_write, BitVec.toNat_inj]

/-- The key store of `KEY[i] <- v` is canonical when it was. -/
theorem writeKey_wf (i v : Byte) (s : State) (h : Memory.wf s.key = true) :
    Memory.wf (writeKey i v s).key = true :=
  Memory.wf_write _ _ _ i.isLt h

/-- The reset key store is canonical. -/
theorem reset_key_wf : Memory.wf State.reset.key = true := rfl

end Sys2Proof.Machine
end

