-- ==== Sys2Proof/Laws/PerInstr.lean ====
section
/-! SUPPORT. Statements for every instruction, one lemma per constructor. `TableRow`: the word of an instruction matches
the row of the opcode table it stands for (30_encoding.md R102). -/

namespace Sys2Proof.Laws.TableRow

/-- The encoded word of an instruction matches its own row of the table. -/
def Statement (i : Instr) : Prop := (rowOf i).matches (encode i) = true

/-- The mask `0x3FF00` keeps direction and address and clears D. -/
theorem wr_mask (a : Addr) (v : Byte) : wr a v &&& 0x3FF00#18 = wr a 0x00#8 := by
  apply BitVec.eq_of_getLsbD_eq
  intro i hi
  rw [BitVec.getLsbD_and, getLsbD_wr, getLsbD_wr]
  interval_cases i <;> simp

theorem rdWith_mask (a : Addr) (d : Byte) : rdWith a d &&& 0x3FF00#18 = rd a := by
  apply BitVec.eq_of_getLsbD_eq
  intro i hi
  rw [BitVec.getLsbD_and, rd, getLsbD_rdWith, getLsbD_rdWith]
  interval_cases i <;> simp

/-- The mask `0x30000` keeps direction and address bit 8. -/
theorem wr_keyAddr_mask (i v : Byte) : wr (keyAddr i) v &&& 0x30000#18 = 0x30000#18 := by
  apply BitVec.eq_of_getLsbD_eq
  intro k hk
  rw [BitVec.getLsbD_and, getLsbD_wr, getLsbD_keyAddr]
  interval_cases k <;> simp

theorem rdWith_keyAddr_mask (i d : Byte) : rdWith (keyAddr i) d &&& 0x30000#18 = 0x10000#18 := by
  apply BitVec.eq_of_getLsbD_eq
  intro k hk
  rw [BitVec.getLsbD_and, getLsbD_rdWith, getLsbD_keyAddr]
  interval_cases k <;> simp

theorem b64e (dk : Bool) : Statement (.b64e dk) := by cases dk <;> rfl

theorem b64d (dk : Bool) : Statement (.b64d dk) := by cases dk <;> rfl

theorem xort (dk : Bool) : Statement (.xort dk) := by cases dk <;> rfl

theorem aenc (dk : Bool) : Statement (.aenc dk) := by cases dk <;> rfl

theorem adec (dk : Bool) : Statement (.adec dk) := by cases dk <;> rfl

theorem cmdw (c : Byte) : Statement (.cmdw c) := by
  simp only [Statement, rowOf, Row.matches, encode, wr_mask]
  rfl

theorem ctrlr (d : Byte) : Statement (.ctrlr d) := by
  simp only [Statement, rowOf, Row.matches, encode, rdWith_mask]
  rfl

theorem statr (d : Byte) : Statement (.statr d) := by
  simp only [Statement, rowOf, Row.matches, encode, rdWith_mask]
  rfl

theorem stclr (m : Byte) : Statement (.stclr m) := by
  simp only [Statement, rowOf, Row.matches, encode, wr_mask]
  rfl

theorem klenr (d : Byte) : Statement (.klenr d) := by
  simp only [Statement, rowOf, Row.matches, encode, rdWith_mask]
  rfl

theorem klenw (n : Byte) : Statement (.klenw n) := by
  simp only [Statement, rowOf, Row.matches, encode, wr_mask]
  rfl

theorem push (v : Byte) : Statement (.push v) := by
  simp only [Statement, rowOf, Row.matches, encode, wr_mask]
  rfl

theorem pop (d : Byte) : Statement (.pop d) := by
  simp only [Statement, rowOf, Row.matches, encode, rdWith_mask]
  rfl

theorem fin (x : Byte) : Statement (.fin x) := by
  simp only [Statement, rowOf, Row.matches, encode, wr_mask]
  rfl

theorem keyr (i d : Byte) : Statement (.keyr i d) := by
  simp [Statement, rowOf, Row.matches, encode, rdWith_keyAddr_mask]

theorem keyw (i v : Byte) : Statement (.keyw i v) := by
  simp [Statement, rowOf, Row.matches, encode, wr_keyAddr_mask]

end Sys2Proof.Laws.TableRow
end

