-- ==== Sys2Proof/Laws/Step.lean ====
section
/-! SUPPORT. What one instruction and one step can do, said once. -/

namespace Sys2Proof.Machine

variable (s : State)

@[simp] theorem exec_b64e (dk : Bool) : exec (.b64e dk) s = .next (startCommand .b64e dk s) := rfl
@[simp] theorem exec_b64d (dk : Bool) : exec (.b64d dk) s = .next (startCommand .b64d dk s) := rfl
@[simp] theorem exec_xort (dk : Bool) : exec (.xort dk) s = .next (startCommand .xort dk s) := rfl
@[simp] theorem exec_aenc (dk : Bool) : exec (.aenc dk) s = .next (startCommand .aenc dk s) := rfl
@[simp] theorem exec_adec (dk : Bool) : exec (.adec dk) s = .next (startCommand .adec dk s) := rfl
@[simp] theorem exec_cmdw (c : Byte) : exec (.cmdw c) s = .next (commandWrite c s) := rfl
@[simp] theorem exec_ctrlr (d : Byte) : exec (.ctrlr d) s = .next (respond (ctrlByte s) s) := rfl
@[simp] theorem exec_statr (d : Byte) : exec (.statr d) s = .next (respond (statusByte s) s) := rfl
@[simp] theorem exec_stclr (m : Byte) : exec (.stclr m) s = .next (acknowledge m s) := rfl
@[simp] theorem exec_klenr (d : Byte) : exec (.klenr d) s = .next (respond s.klen s) := rfl
@[simp] theorem exec_klenw (n : Byte) :
    exec (.klenw n) s = .next (if busy s then raiseProtocolError .p3 s else { s with klen := n }) := rfl
@[simp] theorem exec_push (v : Byte) : exec (.push v) s = .next (dinWrite v s) := rfl
@[simp] theorem exec_pop (d : Byte) : exec (.pop d) s = .next (doutRead s) := rfl
@[simp] theorem exec_fin (x : Byte) : exec (.fin x) s = .next (finWrite x s) := rfl
@[simp] theorem exec_keyr (i d : Byte) : exec (.keyr i d) s = .next (respond (readKey i s) s) := rfl
@[simp] theorem exec_keyw (i v : Byte) :
    exec (.keyw i v) s = .next (if busy s then raiseProtocolError .p3 s else writeKey i v s) := rfl

/-- Everything one step can do: hold, reset, run an instruction, or refuse an access of no row. -/
theorem step_cases {s t : State} (h : step s = .next t) :
    (s.host = [] ∧ t = s) ∨
    (∃ rest, s.host = .reset :: rest ∧ t = hardReset { s with host := rest }) ∨
    (∃ w rest i, s.host = .access w :: rest ∧ decodeAccess w = .ok i ∧ exec i (beginAccess rest s) = .next t) ∨
    (∃ w rest r, s.host = .access w :: rest ∧ decodeAccess w = .error r ∧
      t = refuseAccess r (beginAccess rest s)) := by
  unfold step at h
  split at h
  · exact .inl ⟨‹_›, by cases h; rfl⟩
  · exact .inr (.inl ⟨_, ‹_›, by cases h; rfl⟩)
  · split at h
    · exact .inr (.inr (.inl ⟨_, _, _, ‹_›, ‹_›, h⟩))
    · exact .inr (.inr (.inr ⟨_, _, _, ‹_›, ‹_›, by cases h; rfl⟩))

end Sys2Proof.Machine
end

