-- ==== Sys2Proof/WellFormed.lean ====
section
/-! DEFINITION. Which terms of `Instr` are instructions as 30_encoding.md R93 writes them. -/

namespace Sys2Proof

/-- The word of a read carries `0x00` in its D field (R93). Every other field of every row admits all its values:
the `DK` bit of a command (R91, R107), the byte of a write, the index of a key-store access (R43). -/
def Instr.wellFormed : Instr → Bool
  | .ctrlr d => d == 0x00#8
  | .statr d => d == 0x00#8
  | .klenr d => d == 0x00#8
  | .pop d => d == 0x00#8
  | .keyr _ d => d == 0x00#8
  | .b64e _ => true
  | .b64d _ => true
  | .xort _ => true
  | .aenc _ => true
  | .adec _ => true
  | .cmdw _ => true
  | .stclr _ => true
  | .klenw _ => true
  | .push _ => true
  | .fin _ => true
  | .keyw _ _ => true

end Sys2Proof
end

