-- ==== Sys2Proof/Tests/Slice0.lean ====
section
/-! SUPPORT. Tests: words written out from the encodings of 30_encoding.md, well-formedness, one-step tests with the values
95_test_vectors.md prints, and for every statement with hypotheses a state and operands that meet them. -/

namespace Sys2Proof.Tests

open Sys2Proof.Machine

/-! ## WellFormed: every check refuses an ill-formed term -/

theorem test_illformed_ctrlr : (Instr.ctrlr 0x01#8).wellFormed = false := by decide
theorem test_illformed_statr : (Instr.statr 0x80#8).wellFormed = false := by decide
theorem test_illformed_klenr : (Instr.klenr 0xFF#8).wellFormed = false := by decide
theorem test_illformed_pop : (Instr.pop 0x04#8).wellFormed = false := by decide
theorem test_illformed_keyr : (Instr.keyr 0x05#8 0x05#8).wellFormed = false := by decide
theorem test_wellformed_reads :
    (Instr.ctrlr 0#8).wellFormed = true ∧ (Instr.statr 0#8).wellFormed = true ∧ (Instr.klenr 0#8).wellFormed = true ∧
    (Instr.pop 0#8).wellFormed = true ∧ (Instr.keyr 0xFF#8 0#8).wellFormed = true := by decide

/-! ## Decoding: every row's word, written bit by bit (R91: `0000dooo`; R93: `w aaaaaaaaa dddddddd`) -/

theorem test_decode_b64e : decode (.cmd 0b00000001#8) = .ok (.b64e false) := rfl
theorem test_decode_b64d : decode (.cmd 0b00001010#8) = .ok (.b64d true) := rfl
theorem test_decode_xort : decode (.cmd 0b00000011#8) = .ok (.xort false) := rfl
theorem test_decode_aenc : decode (.cmd 0b00001100#8) = .ok (.aenc true) := rfl
theorem test_decode_adec : decode (.cmd 0b00000101#8) = .ok (.adec false) := rfl
theorem test_decode_cmdw : decode (.bus 0b1_000000000_00000101#18) = .ok (.cmdw 0x05#8) := rfl
theorem test_decode_ctrlr : decode (.bus 0b0_000000000_00000000#18) = .ok (.ctrlr 0#8) := rfl
theorem test_decode_statr : decode (.bus 0b0_000000001_00000000#18) = .ok (.statr 0#8) := rfl
theorem test_decode_stclr : decode (.bus 0b1_000000001_00110000#18) = .ok (.stclr 0x30#8) := rfl
theorem test_decode_klenr : decode (.bus 0b0_000000010_00000000#18) = .ok (.klenr 0#8) := rfl
theorem test_decode_klenw : decode (.bus 0b1_000000010_00000011#18) = .ok (.klenw 3#8) := rfl
theorem test_decode_push : decode (.bus 0b1_000000011_01000001#18) = .ok (.push 0x41#8) := rfl
theorem test_decode_pop : decode (.bus 0b0_000000100_00000000#18) = .ok (.pop 0#8) := rfl
theorem test_decode_fin : decode (.bus 0b1_000000101_00000000#18) = .ok (.fin 0#8) := rfl
theorem test_decode_keyr : decode (.bus 0b0_111111111_00000000#18) = .ok (.keyr 0xFF#8 0#8) := rfl
theorem test_decode_keyw : decode (.bus 0b1_100000010_01111001#18) = .ok (.keyw 2#8 0x79#8) := rfl

/-- R99: the smallest and the largest byte of each kind that is reserved. -/
theorem test_decode_reserved :
    decode (.cmd 0x00#8) = .error .reservedCommand ∧ decode (.cmd 0x06#8) = .error .reservedCommand ∧
    decode (.cmd 0x08#8) = .error .reservedCommand ∧ decode (.cmd 0x0E#8) = .error .reservedCommand ∧
    decode (.cmd 0x11#8) = .error .reservedCommand ∧ decode (.cmd 0xFF#8) = .error .reservedCommand :=
  ⟨rfl, rfl, rfl, rfl, rfl, rfl⟩

/-- R102: the words that match no row. -/
theorem test_decode_no_row :
    decode (.bus (rd 0x003#9)) = .error .refusedRead ∧ decode (.bus (rd 0x005#9)) = .error .refusedRead ∧
    decode (.bus (wr 0x004#9 0#8)) = .error .refusedWrite ∧ decode (.bus (rd 0x006#9)) = .error .refusedRead ∧
    decode (.bus (wr 0x0FF#9 0#8)) = .error .refusedWrite :=
  ⟨rfl, rfl, rfl, rfl, rfl⟩

/-- The host's entry point on the table's own words. -/
theorem test_table_words :
    decodeTableWord 8 0x0D = some (.adec true) ∧ decodeTableWord 24 0x20341 = some (.push 0x41#8) ∧
    decodeTableWord 18 0x1FF00 = some (.keyr 0xFF#8 0#8) ∧ decodeTableWord 24 0x20400 = none := ⟨rfl, rfl, rfl, rfl⟩

/-- A table word placed where the next access stands runs from reset: a `CMD` row and a `BUS` row. -/
theorem test_fetch_words :
    step (State.reset.withFetchWord 8 0x01) = exec (.b64e false) State.reset ∧
    step (State.reset.withFetchWord 24 0x20241) = exec (.klenw 0x41#8) State.reset := ⟨rfl, rfl⟩

/-! ## Operand forms -/

/-- R95: characters the source's examples confirm, and both ends of every range. -/
theorem test_alpha : alpha 0#6 = 0x41#8 ∧ alpha 25#6 = 0x5A#8 ∧ alpha 26#6 = 0x61#8 ∧ alpha 51#6 = 0x7A#8 ∧
    alpha 52#6 = 0x30#8 ∧ alpha 61#6 = 0x39#8 ∧ alpha 62#6 = 0x2B#8 ∧ alpha 63#6 = 0x2F#8 := by decide

/-- R96: the codes next to every range. -/
theorem test_cls : cls 0x2A#8 = .skip ∧ cls 0x2C#8 = .skip ∧ cls 0x2E#8 = .skip ∧ cls 0x3A#8 = .skip ∧
    cls 0x3D#8 = .pad ∧ cls 0x40#8 = .skip ∧ cls 0x5B#8 = .skip ∧ cls 0x60#8 = .skip ∧ cls 0x7B#8 = .skip ∧
    cls 0x2D#8 = .skip ∧ cls 0x5F#8 = .skip ∧ cls 0xFF#8 = .skip := by decide

/-! ## States of the tests -/

/-- After an accepted command with the default key: K10. -/
def running (op : Op) : State := { State.reset with phase := .run, opr := opCode op, dkr := true }

/-- `IDLE` with the key `key` loaded. -/
def withKey : State := { State.reset with klen := 3#8, key := [(0, 0x6B#8), (1, 0x65#8), (2, 0x79#8)] }

/-- A state with one access pending. -/
def pending (w : BusWord) (s : State) : State := { s with host := [.access w] }

/-! ## One step (vectors of 95_test_vectors.md) -/

/-- K3, K4: `B64E` from reset. -/
theorem test_b64e : exec (.b64e true) State.reset = .next { State.reset with phase := .run, opr := 1#3, dkr := true } :=
  rfl

/-- K11. -/
theorem test_b64d : exec (.b64d false) State.reset = .next { State.reset with phase := .run, opr := 2#3 } := rfl

/-- K8. -/
theorem test_xort_empty_key : exec (.xort false) State.reset = .next { State.reset with ia := true } := rfl

/-- K10, K9. -/
theorem test_aenc : exec (.aenc true) State.reset = .next (running .aenc) := rfl
theorem test_aenc_empty_key : exec (.aenc false) State.reset = .next { State.reset with ia := true } := rfl

/-- K10, and R215: busy comes before the key check. -/
theorem test_adec : exec (.adec true) State.reset = .next (running .adec) := rfl
theorem test_adec_busy : exec (.adec false) (running .b64e) = .next { running .b64e with perr := true } := rfl

/-- K13: reserved comes before the key check. -/
theorem test_cmdw_reserved : exec (.cmdw 0x13#8) State.reset = .next { State.reset with perr := true } := rfl

/-- K12: busy comes before all. -/
theorem test_cmdw_busy : exec (.cmdw 0x03#8) (running .b64d) = .next { running .b64d with perr := true } := rfl

/-- K4: `CTRL` reads `0x0C` after `WR 0x000, 0x0C`. -/
theorem test_ctrlr : exec (.ctrlr 0#8) (running .aenc) = .next { running .aenc with rdata := some 0x0C#8 } := rfl

/-- K3: `STATUS` = `0x03` after acceptance; K28: `IN_RDY` clear with three places free. -/
theorem test_statr : exec (.statr 0#8) (running .b64e) = .next { running .b64e with rdata := some 0x03#8 } := rfl
theorem test_statr_no_room :
    statusByte { running .xort with oq := List.replicate 13 0x55#8, perr := true, dstop := true } = 0x65#8 := by decide

/-- K23, K25. -/
theorem test_stclr : exec (.stclr 0x10#8) { State.reset with ia := true, perr := true } =
    .next { State.reset with perr := true } := rfl
theorem test_stclr_other_bits : exec (.stclr 0x0F#8) { State.reset with ia := true, perr := true } =
    .next { State.reset with ia := true, perr := true } := rfl

/-- K21, K22. -/
theorem test_klenr : exec (.klenr 0#8) withKey = .next { withKey with rdata := some 3#8 } := rfl
theorem test_klenw : exec (.klenw 0xFF#8) State.reset = .next { State.reset with klen := 0xFF#8 } := rfl
theorem test_klenw_busy : exec (.klenw 1#8) (running .xort) = .next { running .xort with perr := true } := rfl

/-- ES3: the group `ABC` is complete; `EBUF` keeps its stale bytes. -/
theorem test_push_encoder :
    exec (.push 0x43#8) { running .b64e with ebuf := 0x4142#16, ecnt := 2#2 } =
      .next { running .b64e with ebuf := 0x4142#16, oq := [0x51#8, 0x55#8, 0x4A#8, 0x44#8] } := rfl

/-- DS2, and XS1 on the byte it gives: `0x41 ^ 0x6B`. -/
theorem test_push_autosave_decoder :
    exec (.push 0x55#8) { running .adec with dacc := 0b010000#6, dnb := 6#3 } =
      .next { running .adec with dacc := 0b000100#6, dnb := 4#3, kidx := 1#8, oq := [0x2A#8] } := rfl

/-- K31. -/
theorem test_pop_run : exec (.pop 0#8) { running .xort with oq := [0x10#8] } =
    .next { running .xort with rdata := some 0x10#8 } := rfl
/-- P1 row 25: the read that completes the command leaves `EBUF` and `KIDX` as they are. -/
theorem test_pop_drain :
    exec (.pop 0#8) { running .aenc with phase := .drain, oq := [0x3D#8], ebuf := 0x165F#16, kidx := 1#8 } =
      .next { running .aenc with phase := .idle, ebuf := 0x165F#16, kidx := 1#8, rdata := some 0x3D#8 } := rfl

/-- ES5: the stale low half is not used; K26: the empty input. -/
theorem test_fin_flush : exec (.fin 0#8) { running .b64e with ebuf := 0x4442#16, ecnt := 1#2 } =
    .next { running .b64e with phase := .drain, ebuf := 0x4442#16, oq := [0x52#8, 0x41#8, 0x3D#8, 0x3D#8] } := rfl
theorem test_fin_empty : exec (.fin 0x77#8) (running .b64e) = .next { running .b64e with phase := .idle } := rfl

/-- K20. -/
theorem test_keyr : exec (.keyr 1#8 0#8) withKey = .next { withKey with rdata := some 0x65#8 } := rfl
theorem test_keyw : exec (.keyw 0xFF#8 0x5A#8) State.reset = .next { State.reset with key := [(255, 0x5A#8)] } := rfl
/-- Writing what an unlisted index holds removes the entry. -/
theorem test_keyw_zero : exec (.keyw 1#8 0x00#8) withKey = .next { withKey with key := [(0, 0x6B#8), (2, 0x79#8)] } := rfl

/-- K17, K18: refused accesses of no row. -/
theorem test_step_refused_read : step (pending (rd 0x005#9) State.reset) =
    .next { State.reset with perr := true, rdata := some 0x00#8 } := rfl
theorem test_step_refused_write : step (pending (wr 0x004#9 9#8) State.reset) =
    .next { State.reset with perr := true } := rfl

/-- XS3: the wrap at the end of the default key. -/
theorem test_xorstep_wrap :
    (xorStep 0x61#8 { running .xort with kidx := 2#8 }).1 = 0x18#8 ∧
    (xorStep 0x61#8 { running .xort with kidx := 2#8 }).2.kidx = 0#8 := by decide

/-! ## For every statement with hypotheses, a state and operands that meet them -/

/-- The last item of the queue's room is reached: exactly four places are free (K29). -/
def nearlyFull (op : Op) : State := { running op with oq := List.replicate 12 0x55#8 }

theorem witness_inv_running : Inv (running .aenc) :=
  ⟨by decide, by decide, by decide, by decide, by decide, by decide, by decide, by decide⟩

theorem witness_inv_drain : Inv { running .adec with phase := .drain, oq := [0x55#8], dnb := 2#3, dacc := 3#6 } :=
  ⟨by decide, by decide, by decide, by decide, by decide, by decide, by decide, by decide⟩

theorem witness_inv_key : Inv withKey :=
  ⟨by decide, by decide, by decide, by decide, by decide, by decide, by decide, by decide⟩

/-- `IDLE` after a command that left stale datapath contents behind (R124, R148). -/
def afterCommand : State :=
  { State.reset with
    ebuf := 0x1234#16
    opr := 5#3
    dstop := true
    dnb := 4#3
    dacc := 9#6
    kidx := 2#8
    perr := true }

theorem witness_inv_idle : Inv afterCommand :=
  ⟨by decide, by decide, by decide, by decide, by decide, by decide, by decide, by decide⟩

theorem witness_EncodeOfDecodeIsSame : decode (.bus 0x1FF5A#18) = .ok (.keyr 0xFF#8 0x5A#8) := rfl

theorem witness_DecoderFollowsTheDisjointRows :
    decode (.bus 0x10000#18) = .ok (.keyr 0#8 0#8) ∧ decode (.cmd 0x0E#8) = .error .reservedCommand ∧
    (rowOf (.push 1#8)).matches (.bus 0x20302#18) = true ∧ (rowOf (.push 2#8)).matches (.bus 0x20302#18) = true :=
  ⟨rfl, rfl, rfl, rfl⟩

theorem witness_ReservedCommandsStartNothing :
    decodeCmd 0x08#8 = .error .reservedCommand ∧ State.reset.phase = .idle := ⟨rfl, rfl⟩

theorem witness_CtrlWriteDecodesInTwoStages :
    (decodeBus (wr 0#9 0x0D#8) = .ok (.cmdw 0x0D#8) ∧ decodeCmd 0x0D#8 = .ok (.adec true)) ∧
    (decodeBus (wr 0#9 0x0E#8) = .ok (.cmdw 0x0E#8) ∧ decodeCmd 0x0E#8 = .error .reservedCommand) ∧
    decodeBus (wr 0x001#9 0x0D#8) = .ok (.stclr 0x0D#8) ∧ decodeBus (wr 0x004#9 0x0D#8) = .error .refusedWrite :=
  ⟨⟨rfl, rfl⟩, ⟨rfl, rfl⟩, rfl, rfl⟩

theorem witness_StepRunsTheDecodedInstruction :
    (pending (wr 0x003#9 0x41#8) (running .b64e)).host = .access (wr 0x003#9 0x41#8) :: [] ∧
    decodeAccess (wr 0x003#9 0x41#8) = .ok (.push 0x41#8) := ⟨rfl, rfl⟩

theorem witness_StepRunsTheEncodedInstruction :
    (pending 0x2000C#18 State.reset).host = .access (accessWord (encode (.aenc true))) :: [] := rfl

theorem witness_EveryStepAnswersNext : (running .b64e).host = [] := rfl

theorem witness_ResetEventClearsEverything :
    ({ nearlyFull .adec with host := [.reset, .access popWord] } : State).host = .reset :: [.access popWord] := rfl

theorem witness_StepKeepsTheInvariant :
    Inv (running .aenc) ∧ step (pending (wr 0x003#9 0x7B#8) (running .aenc)) =
      .next { running .aenc with kidx := 1#8, ebuf := 0x1000#16, ecnt := 1#2 } := ⟨witness_inv_running, rfl⟩

theorem witness_BusyKeepsTheKey :
    (running .xort).phase ≠ .idle ∧
    step (pending (wr 0x1FF#9 1#8) (running .xort)) = .next { running .xort with perr := true } := ⟨by decide, rfl⟩

theorem witness_StateChangesOnlyAsListed :
    step (pending (startWord .b64d true) State.reset) = .next (running .b64d) ∧
    step (pending finWord (running .b64d)) = .next { running .b64d with phase := .idle } ∧
    step (pending finWord { running .xort with oq := [1#8] }) =
      .next { running .xort with phase := .drain, oq := [1#8] } ∧
    step (pending popWord { running .xort with phase := .drain, oq := [1#8] }) =
      .next { running .xort with phase := .idle, rdata := some 1#8 } ∧
    step { running .xort with host := [.reset] } = .next State.reset := ⟨rfl, rfl, rfl, rfl, rfl⟩

theorem witness_CommandRegistersLatchAcceptedCommands :
    step (pending (startWord .adec true) withKey) = .next { withKey with phase := .run, opr := 5#3, dkr := true } := rfl

theorem witness_commands_idle :
    State.reset.phase = .idle ∧ withKey.phase = .idle ∧ withKey.klen ≠ 0x00#8 ∧ State.reset.klen = 0x00#8 :=
  ⟨rfl, rfl, by decide, rfl⟩

theorem witness_NothingElseSetsInvalidArgument :
    step (pending (startWord .aenc false) State.reset) = .next { State.reset with ia := true } ∧
    State.reset.ia = false := ⟨rfl, rfl⟩

theorem witness_BusyDropsEveryCommand : (running .b64e).phase ≠ .idle := by decide

theorem witness_LegalCommandWriteIsAccepted :
    State.reset.phase = .idle ∧ keyed .b64d = false ∧ withKey.phase = .idle ∧ keyed .adec = true ∧
    withKey.klen ≠ 0x00#8 := by decide

theorem witness_CtrlWriteDoesWhatItsCommandDoes : decodeCmd 0x03#8 = .ok (.xort false) := rfl

theorem witness_AcceptedCommandTakesInput : Inv withKey ∧ withKey.phase = .idle ∧ withKey.klen ≠ 0x00#8 :=
  ⟨witness_inv_key, rfl, by decide⟩

theorem witness_EmptyKeyFailsAtBothLevels :
    State.reset.phase = .idle ∧ State.reset.klen = 0x00#8 ∧ (0x09#8 ≤ (0x09#8 : Byte) ∧ (0x09#8 : Byte) ≤ 0x0D#8) ∧
    (0x09#8 ≤ (0x0D#8 : Byte) ∧ (0x0D#8 : Byte) ≤ 0x0D#8) := by decide

theorem witness_KeyLengthRegister : State.reset.phase = .idle ∧ (running .b64e).phase ≠ .idle := by decide

theorem witness_KeyStoreReadsAndWrites :
    (0x100#9).getLsbD 8 = true ∧ (0x1FF#9).getLsbD 8 = true ∧ withKey.phase = .idle ∧ (0#8 : Byte) ≠ 0xFF#8 ∧
    (running .b64e).phase ≠ .idle := by decide

theorem witness_ReservedAddressesAreRefused :
    (0x006#9 ≤ (0x006#9 : Addr) ∧ (0x006#9 : Addr) ≤ 0x0FF#9) ∧ (0x006#9 ≤ (0x0FF#9 : Addr) ∧ (0x0FF#9 : Addr) ≤ 0x0FF#9) ∧
    (pending (rd 0x006#9) State.reset).host = .access (rd 0x006#9) :: [] ∧
    (pending (wr 0x0FF#9 1#8) State.reset).host = .access (wr 0x0FF#9 1#8) :: [] := by decide

theorem witness_RefusalsAreExactlyTheListedCauses :
    step (pending (startWord .b64e false) (running .b64e)) = .next { running .b64e with perr := true } ∧
    step (pending (wr 0#9 0x07#8) State.reset) = .next { State.reset with perr := true } ∧
    step (pending (wr 0x002#9 1#8) (running .b64e)) = .next { running .b64e with perr := true } ∧
    step (pending (wr 0x100#9 1#8) (running .b64e)) = .next { running .b64e with perr := true } ∧
    step (pending (pushWord 1#8) State.reset) = .next { State.reset with perr := true } ∧
    step (pending finWord State.reset) = .next { State.reset with perr := true } ∧
    step (pending popWord State.reset) = .next { State.reset with perr := true, rdata := some 0#8 } ∧
    step (pending (rd 0x003#9) State.reset) = .next { State.reset with perr := true, rdata := some 0#8 } ∧
    step (pending (wr 0x004#9 1#8) State.reset) = .next { State.reset with perr := true } ∧
    step (pending (rd 0x0FF#9) State.reset) = .next { State.reset with perr := true, rdata := some 0#8 } ∧
    step (pending statWord State.reset) = .next { State.reset with rdata := some 0#8 } :=
  ⟨rfl, rfl, rfl, rfl, rfl, rfl, rfl, rfl, rfl, rfl, rfl⟩

theorem witness_FlagsGateNothing : exec (.push 1#8) (running .b64e) =
    .next { running .b64e with ebuf := 0x0100#16, ecnt := 1#2 } := rfl

theorem witness_EncoderTakesAByte :
    (nearlyFull .b64e).phase = .run ∧ HasRoom (nearlyFull .b64e) ∧ (nearlyFull .b64e).opr = 1#3 ∧
    (nearlyFull .b64e).ecnt = 0#2 ∧ ({ nearlyFull .b64e with ecnt := 1#2 } : State).ecnt = 1#2 ∧
    ({ nearlyFull .b64e with ecnt := 2#2 } : State).ecnt = 2#2 := by decide

theorem witness_DecoderTakesACharacter :
    (nearlyFull .b64d).phase = .run ∧ HasRoom (nearlyFull .b64d) ∧ (nearlyFull .b64d).opr = 2#3 ∧
    (nearlyFull .b64d).dstop = false ∧ (nearlyFull .b64d).dnb = 0#3 ∧
    ({ nearlyFull .b64d with dstop := true } : State).dstop = true ∧ (∀ v : BitVec 6, (0x2D#8 : Byte) ≠ alpha v) ∧
    (0x2F#8 : Byte) = alpha 63#6 ∧ ({ nearlyFull .b64d with dnb := 6#3 } : State).dnb = 6#3 ∧
    ({ nearlyFull .b64d with dnb := 4#3 } : State).dnb = 4#3 ∧
    ({ nearlyFull .b64d with dnb := 2#3 } : State).dnb = 2#3 := by decide

theorem witness_CipherTakesAByte :
    HasRoom (nearlyFull .xort) ∧ (nearlyFull .xort).phase = .run ∧ (nearlyFull .xort).opr = 3#3 ∧
    ({ nearlyFull .xort with kidx := 2#8 } : State).kidx.toNat < (effectiveKey true (nearlyFull .xort)).length := by decide

theorem witness_AutosaveEncodeTakesAByte :
    HasRoom (nearlyFull .aenc) ∧ (nearlyFull .aenc).phase = .run ∧ (nearlyFull .aenc).opr = 4#3 ∧
    (nearlyFull .aenc).kidx.toNat < (effectiveKey (nearlyFull .aenc).dkr (nearlyFull .aenc)).length ∧
    (nearlyFull .aenc).ecnt = 0#2 ∧ ({ nearlyFull .aenc with ecnt := 1#2 } : State).ecnt = 1#2 ∧
    ({ nearlyFull .aenc with ecnt := 2#2 } : State).ecnt = 2#2 := by decide

theorem witness_AutosaveDecodeTakesACharacter :
    HasRoom (nearlyFull .adec) ∧ (nearlyFull .adec).phase = .run ∧ (nearlyFull .adec).opr = 5#3 ∧
    (nearlyFull .adec).kidx.toNat < (effectiveKey (nearlyFull .adec).dkr (nearlyFull .adec)).length ∧
    (nearlyFull .adec).dstop = false ∧ (nearlyFull .adec).dnb = 0#3 ∧ (0x41#8 : Byte) = alpha 0#6 ∧
    ({ nearlyFull .adec with dstop := true } : State).dstop = true ∧
    ({ nearlyFull .adec with dnb := 6#3 } : State).dnb = 6#3 ∧
    ({ nearlyFull .adec with dnb := 4#3 } : State).dnb = 4#3 ∧
    ({ nearlyFull .adec with dnb := 2#3 } : State).dnb = 2#3 := by decide

theorem witness_EndOfInputFlushesAndLeavesRun :
    (nearlyFull .aenc).phase = .run ∧ HasRoom (nearlyFull .aenc) ∧ (nearlyFull .aenc).opr = 4#3 ∧
    (nearlyFull .aenc).ecnt = 0#2 ∧ HasRoom (nearlyFull .b64d) ∧ (nearlyFull .b64d).opr = 2#3 := by decide

theorem witness_InputIsRefusedWithoutRoom :
    ¬ HasRoom { nearlyFull .xort with oq := List.replicate 13 0x55#8 } ∧ ¬ (State.reset.phase = .run) := by decide

theorem witness_OutputReadTakesTheHead :
    (nearlyFull .xort).oq = 0x55#8 :: List.replicate 11 0x55#8 ∧ (running .xort).oq = [] ∧
    (Inv withKey ∧ withKey.phase = .idle) := ⟨rfl, rfl, witness_inv_key, rfl⟩

theorem witness_OperationsTouchOnlyTheirRegisters :
    exec (.push 0x51#8) (running .b64d) = .next { running .b64d with dacc := 16#6, dnb := 6#3 } ∧
    exec (.fin 0#8) (running .xort) = .next { running .xort with phase := .idle } := ⟨rfl, rfl⟩

theorem witness_ABusyBlockNeverDeadlocks :
    (Inv (running .aenc) ∧ (running .aenc).phase = .run) ∧
    Inv { running .adec with phase := .drain, oq := [0x55#8], dnb := 2#3, dacc := 3#6 } :=
  ⟨⟨witness_inv_running, rfl⟩, witness_inv_drain⟩

theorem witness_ClassifierInvertsTheAlphabet : cls 0x2F#8 = .sym 63#6 := by decide

theorem witness_functions :
    ([0xFF#8, 0#8, 1#8] : List Byte).length % 3 = 0 ∧ (0x3D#8 : Byte) ∉ ([0x51#8, 0x55#8, 0x4A#8, 0x44#8] : List Byte) ∧
    (symbols [0x51#8, 0x55#8, 0x4A#8, 0x44#8]).length % 4 = 0 ∧
    8 * 2 + 8 ≤ 6 * (symbols [0x51#8, 0x55#8, 0x4A#8, 0x44#8]).length ∧ ([0#8] : List Byte) ≠ [] := by decide

/-- ES3, S2: two, and one byte of an incomplete group. -/
theorem witness_EncoderHoldsTheIncompleteGroup :
    State.reset.ecnt = 0#2 ∧ ([1#8, 2#8, 3#8, 4#8] : List Byte).length % 3 = 1 ∧
    ([1#8, 2#8] : List Byte).length % 3 = 2 := by decide

theorem witness_DecoderStepsComputeTheFunction :
    State.reset.dstop = false ∧ State.reset.dacc = 0#6 ∧ State.reset.dnb = 0#3 ∧
    ([0x51#8, 0x3D#8, 0x51#8] : List Byte) = [0x51#8] ++ [0x3D#8, 0x51#8] ∧ (0x3D#8 : Byte) ∉ ([0x51#8] : List Byte) ∧
    (0x3D#8 : Byte) ∈ ([0x51#8, 0x3D#8] : List Byte) := by decide

theorem witness_CipherStepsComputeTheFunction : withKey.kidx = 0x00#8 ∧ effectiveKey withKey.dkr withKey ≠ [] := by decide

theorem witness_StreamingEqualsTheFunction :
    DatapathCleared (running .adec) ∧ (running .adec).opr = opCode .adec ∧
    effectiveKey (running .adec).dkr (running .adec) ≠ [] := by decide

/-- A whole command: `XORT` of `00` with the default key, with a refused `DOUT` read between. -/
theorem witness_CommandComputesItsFunction :
    (Inv withKey ∧ withKey.phase = .idle ∧ effectiveKey true withKey ≠ [] ∧ effectiveKey false State.reset = []) ∧
    observe [popWord, pushWord 0x00#8, finWord, popWord] (issue (startWord .xort true) withKey) =
      some ([0x00#8], [0x6B#8]) :=
  ⟨⟨witness_inv_key, rfl, by decide, by decide⟩, by decide⟩

/-- A state that differs from reset in the datapath only, as a completed command may leave it. -/
def staleDatapath : State :=
  { State.reset with ebuf := 0x1234#16, dnb := 4#3, dacc := 9#6, kidx := 2#8 }

theorem witness_inv_stale : Inv staleDatapath :=
  ⟨by decide, by decide, by decide, by decide, by decide, by decide, by decide, by decide⟩

theorem witness_inv_reset : Inv State.reset :=
  ⟨by decide, by decide, by decide, by decide, by decide, by decide, by decide, by decide⟩

theorem witness_CommandsAreIndependent :
    (Inv State.reset ∧ Inv afterCommand ∧ afterCommand.phase = .idle ∧ State.reset.cfg = afterCommand.cfg ∧
      State.reset.key = afterCommand.key ∧ State.reset.klen = afterCommand.klen) ∧
    (Inv staleDatapath ∧ staleDatapath.phase = .idle ∧ State.reset.cfg = staleDatapath.cfg ∧
      State.reset.key = staleDatapath.key ∧ State.reset.klen = staleDatapath.klen ∧
      State.reset.opr = staleDatapath.opr ∧ State.reset.dkr = staleDatapath.dkr ∧
      State.reset.dstop = staleDatapath.dstop ∧ State.reset.ia = staleDatapath.ia ∧
      State.reset.perr = staleDatapath.perr) :=
  ⟨⟨witness_inv_reset, witness_inv_idle, rfl, rfl, rfl, rfl⟩,
    ⟨witness_inv_stale, rfl, rfl, rfl, rfl, rfl, rfl, rfl, rfl, rfl⟩⟩

theorem witness_LoadKeyMakesTheEffectiveKey :
    State.reset.phase = .idle ∧ (List.replicate 255 0x5A#8).length ≤ 255 ∧ ([] : List Byte).length ≤ 255 :=
  ⟨rfl, List.length_replicate.le, by decide⟩

/-- The source's end-to-end example starts like this: `7B` through `AENC` with the default key gives `EA==`. -/
theorem witness_CanonicalDriverReturnsTheResult :
    (Inv State.reset ∧ State.reset.phase = .idle ∧ State.reset.ia = false) ∧
    (canonicalDriver .aenc true [] [0x7B#8] State.reset).2 = some [0x45#8, 0x41#8, 0x3D#8, 0x3D#8] :=
  ⟨⟨⟨by decide, by decide, by decide, by decide, by decide, by decide, by decide, by decide⟩, rfl, rfl⟩, by decide⟩

end Sys2Proof.Tests
end

section
/-! The step on a pending access (20_memory.md R61, R68): the two stages of R102 choose what runs. -/

namespace Sys2Proof.Machine

/-- The exact equation behind the third case of `step_cases`: a pending word that decodes runs its instruction, after
the access has left the stream. -/
theorem step_of_decodeAccess_ok {s : State} {w : BusWord} {rest : List HostEvent} {i : Instr}
    (hhost : s.host = .access w :: rest) (hdec : decodeAccess w = .ok i) :
    step s = exec i (beginAccess rest s) := by
  simp only [step, hhost, hdec]

/-- Beginning an access touches the two fields of the model's interface to the host and no field of the block. -/
theorem beginAccess_eq (rest : List HostEvent) (s : State) :
    beginAccess rest s = { s with host := rest, rdata := none } := rfl

/-- Settles O7: the step equation for a decoded access, with the begun access written out as the two fields it sets. -/
theorem stepRunsTheDecodedInstruction : Obligations.StepRunsTheDecodedInstruction := by
  unfold Obligations.StepRunsTheDecodedInstruction
  intro s w rest i hhost hdec
  calc step s = exec i (beginAccess rest s) := step_of_decodeAccess_ok hhost hdec
    _ = exec i { s with host := rest, rdata := none } := by rw [beginAccess_eq]

end Sys2Proof.Machine
end

section
/-! What the data steps leave unchanged (10_state.md R23), as one frame equation per step. -/

namespace Sys2Proof.Machine

theorem encStep_frame (x : Byte) (s : State) :
    ∃ b e o, encStep x s = { s with ebuf := b, ecnt := e, oq := o } := by
  rcases encStep_cases x s with ⟨_, h⟩ | ⟨_, h⟩ | ⟨_, _, h⟩
  all_goals exact ⟨_, _, _, h⟩

theorem encFlush_frame (s : State) : ∃ e o, encFlush s = { s with ecnt := e, oq := o } := by
  rcases encFlush_cases s with ⟨_, h⟩ | ⟨_, h⟩ | ⟨_, _, h⟩
  all_goals exact ⟨_, _, h⟩

theorem decSymbol_frame (v : BitVec 6) (s : State) :
    ∃ a n, (decSymbol v s).2 = { s with dacc := a, dnb := n } := by
  rcases decSymbol_cases v s with ⟨_, h⟩ | ⟨_, h⟩
  all_goals exact ⟨_, _, congrArg Prod.snd h⟩

theorem decStep_frame (c : Byte) (s : State) :
    ∃ a n d, (decStep c s).2 = { s with dacc := a, dnb := n, dstop := d } := by
  rcases decStep_cases c s with ⟨_, h⟩ | ⟨_, _, h⟩ | ⟨v, _, _, h⟩
  · exact ⟨_, _, _, congrArg Prod.snd h⟩
  · exact ⟨_, _, _, congrArg Prod.snd h⟩
  · obtain ⟨a, n, hv⟩ := decSymbol_frame v s
    exact ⟨a, n, s.dstop, by rw [h, hv]⟩

theorem emitSome_frame (y : Option Byte) (s : State) : ∃ o, emitSome y s = { s with oq := o } := by
  cases y
  all_goals exact ⟨_, rfl⟩

theorem cipherSome_frame (y : Option Byte) (s : State) :
    ∃ k o, cipherSome y s = { s with kidx := k, oq := o } := by
  cases y
  all_goals exact ⟨_, _, rfl⟩

/-! ### An item, by the operation that takes it (R188) -/

theorem item_frame_b64e (v : Byte) {s : State} (hop : s.opr = 1#3) :
    ∃ b e o, item v s = { s with ebuf := b, ecnt := e, oq := o } := by
  obtain ⟨hb64e, _⟩ := item_of_opr v s
  rw [hb64e hop]
  exact encStep_frame v s

theorem item_frame_b64d (v : Byte) {s : State} (hop : s.opr = 2#3) :
    ∃ a n d o, item v s = { s with dacc := a, dnb := n, dstop := d, oq := o } := by
  obtain ⟨_, hb64d, _⟩ := item_of_opr v s
  obtain ⟨a, n, d, hdec⟩ := decStep_frame v s
  obtain ⟨o, hemit⟩ := emitSome_frame (decStep v s).1 (decStep v s).2
  exact ⟨a, n, d, o, by rw [hb64d hop, hemit, hdec]⟩

theorem item_frame_xort (v : Byte) {s : State} (hop : s.opr = 3#3) :
    ∃ k o, item v s = { s with kidx := k, oq := o } := by
  obtain ⟨_, _, hxort, _⟩ := item_of_opr v s
  exact ⟨_, _, hxort hop⟩

theorem item_frame_aenc (v : Byte) {s : State} (hop : s.opr = 4#3) :
    ∃ b e k o, item v s = { s with ebuf := b, ecnt := e, kidx := k, oq := o } := by
  obtain ⟨_, _, _, haenc, _⟩ := item_of_opr v s
  obtain ⟨b, e, o, henc⟩ := encStep_frame (xorStep v s).1 (xorStep v s).2
  exact ⟨b, e, (xorStep v s).2.kidx, o, by rw [haenc hop, henc]; rfl⟩

theorem item_frame_adec (v : Byte) {s : State} (hop : s.opr = 5#3) :
    ∃ a n d k o, item v s = { s with dacc := a, dnb := n, dstop := d, kidx := k, oq := o } := by
  obtain ⟨_, _, _, _, hadec⟩ := item_of_opr v s
  obtain ⟨a, n, d, hdec⟩ := decStep_frame v s
  obtain ⟨k, o, hcipher⟩ := cipherSome_frame (decStep v s).1 (decStep v s).2
  exact ⟨a, n, d, k, o, by rw [hadec hop, hcipher, hdec]⟩

/-- `OPR` outside 1 to 5, in states no run reaches: an item does nothing (log entry 9). -/
theorem item_of_opOfCode_none (v : Byte) {s : State} (hop : opOfCode s.opr = none) : item v s = s := by
  simp [item, hop]

/-- The values of `OPR`, as R188 and R189 tell them apart. -/
theorem opr_cases (c : BitVec 3) :
    c = 1#3 ∨ c = 2#3 ∨ c = 3#3 ∨ c = 4#3 ∨ c = 5#3 ∨ opOfCode c = none := by
  revert c
  decide

/-- An item writes the datapath registers and the queue, whatever `OPR` is (R23). -/
theorem item_frame (v : Byte) (s : State) :
    ∃ b e a n d k o, item v s =
      { s with ebuf := b, ecnt := e, dacc := a, dnb := n, dstop := d, kidx := k, oq := o } := by
  rcases opr_cases s.opr with hop | hop | hop | hop | hop | hop
  · obtain ⟨b, e, o, h⟩ := item_frame_b64e v hop
    exact ⟨_, _, _, _, _, _, _, h⟩
  · obtain ⟨a, n, d, o, h⟩ := item_frame_b64d v hop
    exact ⟨_, _, _, _, _, _, _, h⟩
  · obtain ⟨k, o, h⟩ := item_frame_xort v hop
    exact ⟨_, _, _, _, _, _, _, h⟩
  · obtain ⟨b, e, k, o, h⟩ := item_frame_aenc v hop
    exact ⟨_, _, _, _, _, _, _, h⟩
  · obtain ⟨a, n, d, k, o, h⟩ := item_frame_adec v hop
    exact ⟨_, _, _, _, _, _, _, h⟩
  · exact ⟨_, _, _, _, _, _, _, item_of_opOfCode_none v hop⟩

/-- The end of the input flushes the encoder or does nothing (R189). -/
theorem flush_cases (s : State) : flush s = encFlush s ∨ flush s = s := by
  unfold flush
  cases opOfCode s.opr with
  | none => exact .inr rfl
  | some op =>
    cases op with
    | b64e | aenc => exact .inl rfl
    | b64d | xort | adec => exact .inr rfl

/-- The end of the input writes `ECNT` and the queue and nothing else, whatever `OPR` is (R23, R189). -/
theorem flush_frame (s : State) : ∃ e o, flush s = { s with ecnt := e, oq := o } := by
  rcases flush_cases s with h | h
  · rw [h]
    exact encFlush_frame s
  · exact ⟨_, _, h⟩

/-! ### The table of R23 -/

/-- The registers R23 lists as left alone by the operation `OPR` selects, and the command registers, the key and `IA`. -/
def TouchesOnlyItsRegisters (s t : State) : Prop :=
  (s.opr = 1#3 → t.dacc = s.dacc ∧ t.dnb = s.dnb ∧ t.dstop = s.dstop ∧ t.kidx = s.kidx) ∧
  (s.opr = 2#3 → t.ebuf = s.ebuf ∧ t.ecnt = s.ecnt ∧ t.kidx = s.kidx) ∧
  (s.opr = 3#3 → t.ebuf = s.ebuf ∧ t.ecnt = s.ecnt ∧ t.dacc = s.dacc ∧ t.dnb = s.dnb ∧ t.dstop = s.dstop) ∧
  (s.opr = 4#3 → t.dacc = s.dacc ∧ t.dnb = s.dnb ∧ t.dstop = s.dstop) ∧
  (s.opr = 5#3 → t.ebuf = s.ebuf ∧ t.ecnt = s.ecnt) ∧
  (t.opr = s.opr ∧ t.dkr = s.dkr ∧ t.klen = s.klen ∧ t.key = s.key ∧ t.ia = s.ia)

theorem item_touchesOnlyItsRegisters (v : Byte) (s : State) : TouchesOnlyItsRegisters s (item v s) := by
  refine ⟨fun hop => ?_, fun hop => ?_, fun hop => ?_, fun hop => ?_, fun hop => ?_, ?_⟩
  · obtain ⟨b, e, o, h⟩ := item_frame_b64e v hop
    rw [h]
    exact ⟨rfl, rfl, rfl, rfl⟩
  · obtain ⟨a, n, d, o, h⟩ := item_frame_b64d v hop
    rw [h]
    exact ⟨rfl, rfl, rfl⟩
  · obtain ⟨k, o, h⟩ := item_frame_xort v hop
    rw [h]
    exact ⟨rfl, rfl, rfl, rfl, rfl⟩
  · obtain ⟨b, e, k, o, h⟩ := item_frame_aenc v hop
    rw [h]
    exact ⟨rfl, rfl, rfl⟩
  · obtain ⟨a, n, d, k, o, h⟩ := item_frame_adec v hop
    rw [h]
    exact ⟨rfl, rfl⟩
  · obtain ⟨b, e, a, n, d, k, o, h⟩ := item_frame v s
    rw [h]
    exact ⟨rfl, rfl, rfl, rfl, rfl⟩

/-- At the end of the input `ECNT` is the one datapath register written, and only by the operations that encode. -/
theorem endInput_flush_touchesOnlyItsRegisters (s : State) :
    TouchesOnlyItsRegisters s (endInput (flush s)) := by
  obtain ⟨_, hkept⟩ := flush_of_opr s
  obtain ⟨e, o, hflush⟩ := flush_frame s
  refine ⟨fun _ => ?_, fun hop => ?_, fun hop => ?_, fun _ => ?_, fun hop => ?_, ?_⟩
  · rw [hflush]
    exact ⟨rfl, rfl, rfl, rfl⟩
  · rw [hkept (.inl hop)]
    exact ⟨rfl, rfl, rfl⟩
  · rw [hkept (.inr (.inl hop))]
    exact ⟨rfl, rfl, rfl, rfl, rfl⟩
  · rw [hflush]
    exact ⟨rfl, rfl, rfl⟩
  · rw [hkept (.inr (.inr hop))]
    exact ⟨rfl, rfl⟩
  · rw [hflush]
    exact ⟨rfl, rfl, rfl, rfl, rfl⟩

end Sys2Proof.Machine
end

section
/-! What an access can do, said once for every property of the step: the cases of 43_composition_controller.md R178 to
R192 and 10_state.md R37 to R44, with the condition each stands under. -/

namespace Sys2Proof.Machine

/-- `IN_RDY` in the terms of the statements (R35). -/
theorem inRdy_iff (s : State) : inRdy s = true ↔ s.phase = .run ∧ HasRoom s := by
  simp [inRdy]

/-- What an access does to the state it begins in, by what its word decodes to: an instruction, or a rejected word. -/
inductive AccessOutcome (d : Except Reject Instr) (s : State) : State → Prop
  /-- A register is read. -/
  | answered (v : Byte) : AccessOutcome d s (respond v s)
  /-- The access is refused (R216): a refused read also returns a byte. -/
  | refused (rd : Option Byte) : AccessOutcome d s { s with perr := true, rdata := rd }
  /-- A keyed command fails on the empty key (R212). -/
  | failed : AccessOutcome d s (raiseInvalidArgument s)
  /-- `STATUS` is written (R38). -/
  | acknowledged (m : Byte) : AccessOutcome d s (acknowledge m s)
  /-- A command is accepted (R180), under its own row or as the byte of `CMDW`. -/
  | accepted (op : Op) (dk : Bool) (hidle : s.phase = .idle)
      (hkey : keyed op = false ∨ dk = true ∨ s.klen ≠ 0x00#8)
      (hd : d = .ok (startInstr op dk) ∨ ∃ c, d = .ok (.cmdw c) ∧ cmdOperation c = some op) :
      AccessOutcome d s (accept op dk s)
  /-- `KLEN` is written (R39). -/
  | keyLengthSet (n : Byte) (hidle : s.phase = .idle) : AccessOutcome d s { s with klen := n }
  /-- A byte of the key store is written (R43). -/
  | keyByteSet (i v : Byte) (hidle : s.phase = .idle) : AccessOutcome d s (writeKey i v s)
  /-- An item is taken (R186). -/
  | itemTaken (v : Byte) (hd : d = .ok (.push v)) (hrun : s.phase = .run) (hroom : HasRoom s) :
      AccessOutcome d s (item v s)
  /-- The input ends (R190). -/
  | inputEnded (x : Byte) (hd : d = .ok (.fin x)) (hrun : s.phase = .run) (hroom : HasRoom s) :
      AccessOutcome d s (endInput (flush s))
  /-- The head of the queue is returned (R192). -/
  | itemReturned (r y : Byte) (rest : List Byte) (hd : d = .ok (.pop r)) (hoq : s.oq = y :: rest) :
      AccessOutcome d s (respond y (dropHead rest s))

theorem startCommand_outcome (op : Op) (dk : Bool) (s : State) {d : Except Reject Instr}
    (hd : d = .ok (startInstr op dk) ∨ ∃ c, d = .ok (.cmdw c) ∧ cmdOperation c = some op) :
    AccessOutcome d s (startCommand op dk s) := by
  rcases startCommand_cases op dk s with ⟨_, h⟩ | ⟨_, _, _, _, h⟩ | ⟨hidle, hkey, h⟩
  · rw [h]
    exact .refused s.rdata
  · rw [h]
    exact .failed
  · rw [h]
    exact .accepted op dk hidle hkey hd

theorem commandWrite_outcome (c : Byte) (s : State) : AccessOutcome (.ok (.cmdw c)) s (commandWrite c s) := by
  rcases commandWrite_cases c s with ⟨_, h⟩ | ⟨_, _, h⟩ | ⟨op, _, hop, h⟩
  · rw [h]
    exact .refused s.rdata
  · rw [h]
    exact .refused s.rdata
  · rw [h]
    exact startCommand_outcome op (cmdDk c) s (.inr ⟨c, rfl, hop⟩)

theorem dinWrite_outcome (v : Byte) (s : State) : AccessOutcome (.ok (.push v)) s (dinWrite v s) := by
  unfold dinWrite
  split
  · next hrdy =>
    obtain ⟨hrun, hroom⟩ := (inRdy_iff s).mp hrdy
    exact .itemTaken v rfl hrun hroom
  · exact .refused s.rdata

theorem finWrite_outcome (x : Byte) (s : State) : AccessOutcome (.ok (.fin x)) s (finWrite x s) := by
  unfold finWrite
  split
  · next hrdy =>
    obtain ⟨hrun, hroom⟩ := (inRdy_iff s).mp hrdy
    exact .inputEnded x rfl hrun hroom
  · exact .refused s.rdata

theorem doutRead_outcome (r : Byte) (s : State) : AccessOutcome (.ok (.pop r)) s (doutRead s) := by
  unfold doutRead
  split
  · exact .refused (some 0x00)
  · next y rest hoq => exact .itemReturned r y rest rfl hoq

/-- A register write that only `IDLE` takes has the outcome of the write there, and is refused while busy (P3). -/
theorem idleWrite_outcome {d : Except Reject Instr} {s t : State} (h : s.phase = .idle → AccessOutcome d s t) :
    AccessOutcome d s (if busy s then raiseProtocolError .p3 s else t) := by
  split
  · exact .refused s.rdata
  · next hbusy => exact h ((busy_eq_false s).mp (by simpa using hbusy))

/-- Every instruction has one of the outcomes, with its condition. -/
theorem exec_outcome {i : Instr} {s t : State} (h : exec i s = .next t) : AccessOutcome (.ok i) s t := by
  cases i with
  | b64e dk | b64d dk | xort dk | aenc dk | adec dk => cases h; exact startCommand_outcome _ dk s (.inl rfl)
  | cmdw c => cases h; exact commandWrite_outcome c s
  | ctrlr | statr | klenr | keyr => cases h; exact .answered _
  | stclr m => cases h; exact .acknowledged m
  | klenw n => cases h; exact idleWrite_outcome (.keyLengthSet n)
  | keyw k v => cases h; exact idleWrite_outcome (.keyByteSet k v)
  | push v => cases h; exact dinWrite_outcome v s
  | pop r => cases h; exact doutRead_outcome r s
  | fin x => cases h; exact finWrite_outcome x s

theorem refuseAccess_outcome (r : Reject) (s : State) : AccessOutcome (.error r) s (refuseAccess r s) := by
  cases r
  case refusedRead => exact .refused (some 0x00)
  all_goals exact .refused s.rdata

/-- The companion of `step_of_decodeAccess_ok`: a pending word of no row is refused (R102, R216). -/
theorem step_of_decodeAccess_error {s : State} {w : BusWord} {rest : List HostEvent} {r : Reject}
    (hhost : s.host = .access w :: rest) (hdec : decodeAccess w = .error r) :
    step s = .next (refuseAccess r (beginAccess rest s)) := by
  simp only [step, hhost, hdec]

/-- Every step on a pending access has one of the outcomes, from the state in which the access has begun. -/
theorem step_outcome {s t : State} {w : BusWord} {rest : List HostEvent} (hhost : s.host = .access w :: rest)
    (hstep : step s = .next t) : AccessOutcome (decodeAccess w) (beginAccess rest s) t := by
  cases hdec : decodeAccess w with
  | ok i =>
    rw [step_of_decodeAccess_ok hhost hdec] at hstep
    exact exec_outcome hstep
  | error r =>
    rw [step_of_decodeAccess_error hhost hdec] at hstep
    cases hstep
    exact refuseAccess_outcome r _

end Sys2Proof.Machine
end

section
/-! The invariant of 10_state.md R45 is kept. Each elementary update (the queue with `STATE`, the encoder, the decoder, the
cyclic index) keeps it under its own condition, and the accesses are made of these updates. -/

namespace Sys2Proof.Machine

/-! ### Elementary updates -/

/-- While busy, `STATE` and the queue may move to anything that is legal again (R45 d, e, f): no other part of the
invariant can then get harder. -/
theorem inv_setQueue {s : State} (h : Inv s) (hbusy : s.phase ≠ .idle) (p : Phase) (o : List Byte)
    (hqueue : QueueLegal { s with phase := p, oq := o }) : Inv { s with phase := p, oq := o } := by
  obtain ⟨hcfg, hcount, hres, _, ⟨hopr, hopr0⟩, ⟨hkidx, hkey⟩, hstop, hwf⟩ := h
  exact ⟨hcfg, hcount, hres, hqueue, ⟨hopr, fun _ => hopr0 hbusy⟩, ⟨hkidx, fun hk => hkey ⟨hbusy, hk.2⟩⟩, hstop, hwf⟩

theorem inv_setEncoder {s : State} (h : Inv s) (b : BitVec 16) {e : BitVec 2}
    (hcount : e = 0#2 ∨ e = 1#2 ∨ e = 2#2) : Inv { s with ebuf := b, ecnt := e } := by
  obtain ⟨hcfg, _, hres, hqueue, hcmd, hidx, hstop, hwf⟩ := h
  exact ⟨hcfg, hcount, hres, hqueue, hcmd, hidx, hstop, hwf⟩

/-- A decoding operation may hold any legal residue and may set `DSTOP` (R45 c, k). -/
theorem inv_setDecoder {s t : State} (h : Inv s) (hop : s.opr = 2#3 ∨ s.opr = 5#3)
    (hframe : ∃ a n d, t = { s with dacc := a, dnb := n, dstop := d }) (hres : ResidueLegal t) : Inv t := by
  obtain ⟨hcfg, hcount, _, hqueue, hcmd, hidx, _, hwf⟩ := h
  obtain ⟨a, n, d, rfl⟩ := hframe
  exact ⟨hcfg, hcount, hres, hqueue, hcmd, hidx, fun _ => hop, hwf⟩

/-- Items that fit may be appended while the block runs. -/
theorem inv_emitAll {s : State} (h : Inv s) (hrun : s.phase = .run) (vs : List Byte)
    (hfit : s.oq.length + vs.length ≤ s.cfg.oqcap) : Inv (emitAll vs s) := by
  have hqueue : QueueLegal { s with phase := s.phase, oq := s.oq ++ vs } := by
    simp [QueueLegal, hrun, hfit]
  exact inv_setQueue h (by simp [hrun]) _ _ hqueue

/-! ### The data steps -/

theorem hasRoom_iff {s : State} : HasRoom s ↔ s.oq.length + 4 ≤ s.cfg.oqcap := by
  simp only [HasRoom]
  omega

theorem encStep_inv {s : State} (h : Inv s) (hrun : s.phase = .run) (hroom : HasRoom s) (x : Byte) :
    Inv (encStep x s) := by
  rcases encStep_cases x s with ⟨_, hstep⟩ | ⟨_, hstep⟩ | ⟨_, _, hstep⟩
  · rw [hstep]
    exact inv_setEncoder h _ (.inr (.inl rfl))
  · rw [hstep]
    exact inv_setEncoder h _ (.inr (.inr rfl))
  · rw [hstep]
    exact inv_setEncoder (inv_emitAll h hrun (enc4 (s.ebuf ++ x)) (hasRoom_iff.mp hroom)) _ (.inl rfl)

theorem encFlush_inv {s : State} (h : Inv s) (hrun : s.phase = .run) (hroom : HasRoom s) : Inv (encFlush s) := by
  rcases encFlush_cases s with ⟨_, hflush⟩ | ⟨_, hflush⟩ | ⟨_, _, hflush⟩
  · rw [hflush]
    exact inv_setEncoder (inv_emitAll h hrun (encOne (ebufHi s)) (hasRoom_iff.mp hroom)) _ (.inl rfl)
  · rw [hflush]
    exact inv_setEncoder (inv_emitAll h hrun (encTwo (ebufHi s) (ebufLo s)) (hasRoom_iff.mp hroom)) _ (.inl rfl)
  · rw [hflush]
    exact inv_setEncoder h _ (.inl rfl)

/-- A symbol leaves two bits fewer where it completes a byte, and its own six bits where nothing was held (R146). -/
theorem decSymbol_residueLegal (v : BitVec 6) {s : State} (h : ResidueLegal s) :
    ResidueLegal (decSymbol v s).2 := by
  obtain ⟨hdnb, _⟩ := h
  have hlow (n : Nat) (hn : n ≤ 6) : (lowBits (s.dacc ++ v) n).toNat < 2 ^ n := by
    rw [toNat_lowBits _ _ hn]
    exact Nat.mod_lt _ (Nat.two_pow_pos n)
  rcases decSymbol_cases v s with ⟨hheld, hstep⟩ | ⟨hnone, hstep⟩
  · rw [hstep]
    rcases hdnb with hn | hn | hn | hn
    · simp [hn] at hheld
    · exact ⟨.inl (by simp [hn]), by simpa [hn] using hlow 0 (by omega)⟩
    · exact ⟨.inr (.inl (by simp [hn])), by simpa [hn] using hlow 2 (by omega)⟩
    · exact ⟨.inr (.inr (.inl (by simp [hn]))), by simpa [hn] using hlow 4 (by omega)⟩
  · rw [hstep]
    rcases hdnb with hn | hn | hn | hn
    · exact ⟨.inr (.inr (.inr (by simp [hn]))), by simpa [hn] using v.isLt⟩
    all_goals simp [hn] at hnone

theorem decStep_residueLegal (c : Byte) {s : State} (h : ResidueLegal s) : ResidueLegal (decStep c s).2 := by
  rcases decStep_cases c s with ⟨_, hstep⟩ | ⟨_, _, hstep⟩ | ⟨v, _, _, hstep⟩
  · rw [hstep]
    exact h
  · rw [hstep]
    exact h
  · rw [hstep]
    exact decSymbol_residueLegal v h

theorem decStep_inv {s : State} (h : Inv s) (hop : s.opr = 2#3 ∨ s.opr = 5#3) (c : Byte) : Inv (decStep c s).2 := by
  have ⟨_, _, hres, _⟩ := h
  exact inv_setDecoder h hop (decStep_frame c s) (decStep_residueLegal c hres)

theorem eklen_le (dk : Bool) (s : State) : eklen dk s ≤ 255 := by
  have hklen := s.klen.isLt
  cases dk
  · exact Nat.le_of_lt_succ hklen
  · exact (by decide : 3 ≤ 255)

/-- The effective key is empty only where `DK = 0` and `KLEN = 0` (R164). -/
theorem eklen_pos {dk : Bool} {s : State} (h : dk = true ∨ s.klen ≠ 0x00#8) : 1 ≤ eklen dk s := by
  cases dk with
  | true => exact (by decide : 1 ≤ 3)
  | false =>
    have hklen : s.klen ≠ 0x00#8 := by simpa using h
    exact Nat.pos_of_ne_zero fun h0 => hklen (BitVec.eq_of_toNat_eq h0)

/-- Below the key's length the index moves on or wraps, and stays below it (R165). -/
theorem xorStep_kidx_lt (b : Byte) {s : State} (h : s.kidx.toNat < eklen s.dkr s) :
    (xorStep b s).2.kidx.toNat < eklen s.dkr s := by
  have hle := eklen_le s.dkr s
  rcases xorStep_kidx b s with ⟨_, hk⟩ | ⟨hwrap, hk⟩
  · rw [hk]
    exact Nat.zero_lt_of_lt h
  · rw [hk, BitVec.toNat_add]
    simp only [BitVec.toNat_ofNat]
    omega

theorem xorStep_inv {s : State} (h : Inv s) (hkeyed : KeyedRunning s) (b : Byte) : Inv (xorStep b s).2 := by
  obtain ⟨hcfg, hcount, hres, hqueue, hcmd, ⟨_, hkey⟩, hstop, hwf⟩ := h
  obtain ⟨hlt, hpos⟩ := hkey hkeyed
  have hlt' := xorStep_kidx_lt b hlt
  have hle := eklen_le s.dkr s
  exact ⟨hcfg, hcount, hres, hqueue, hcmd, ⟨by omega, fun _ => ⟨hlt', hpos⟩⟩, hstop, hwf⟩

/-- One item fits wherever four do. -/
theorem emit_inv {s : State} (h : Inv s) (hrun : s.phase = .run) (hroom : HasRoom s) (b : Byte) : Inv (emit b s) := by
  have hfit : s.oq.length + 1 ≤ s.cfg.oqcap := by
    have := hasRoom_iff.mp hroom
    omega
  exact inv_emitAll h hrun [b] hfit

/-! ### An item and the end of the input -/

theorem item_inv {s : State} (h : Inv s) (hrun : s.phase = .run) (hroom : HasRoom s) (v : Byte) :
    Inv (item v s) := by
  obtain ⟨hb64e, hb64d, hxort, haenc, hadec⟩ := item_of_opr v s
  have hbusy : s.phase ≠ .idle := by simp [hrun]
  rcases opr_cases s.opr with hop | hop | hop | hop | hop | hop
  · rw [hb64e hop]
    exact encStep_inv h hrun hroom v
  · rw [hb64d hop]
    have hdec := decStep_inv h (.inl hop) v
    obtain ⟨a, n, d, hframe⟩ := decStep_frame v s
    cases (decStep v s).1 with
    | none => exact hdec
    | some b => exact emit_inv hdec (by rw [hframe]; exact hrun) (by rw [hframe]; exact hroom) b
  · rw [hxort hop]
    exact emit_inv (xorStep_inv h ⟨hbusy, .inl hop⟩ v) hrun hroom _
  · rw [haenc hop]
    exact encStep_inv (xorStep_inv h ⟨hbusy, .inr (.inl hop)⟩ v) hrun hroom _
  · rw [hadec hop]
    have hdec := decStep_inv h (.inr hop) v
    obtain ⟨a, n, d, hframe⟩ := decStep_frame v s
    rw [hframe] at hdec ⊢
    cases (decStep v s).1 with
    | none => exact hdec
    | some b => exact emit_inv (xorStep_inv hdec ⟨hbusy, .inr (.inr hop)⟩ b) hrun hroom _
  · rw [item_of_opOfCode_none v hop]
    exact h

theorem flush_inv {s : State} (h : Inv s) (hrun : s.phase = .run) (hroom : HasRoom s) : Inv (flush s) := by
  rcases flush_cases s with hflush | hflush
  · rw [hflush]
    exact encFlush_inv h hrun hroom
  · rw [hflush]
    exact h

/-- `FIN` goes to `IDLE` exactly with an empty queue (R190). -/
theorem endInput_inv {s : State} (h : Inv s) (hrun : s.phase = .run) : Inv (endInput s) := by
  have ⟨_, _, _, ⟨hcap, _⟩, _⟩ := h
  have hqueue : QueueLegal { s with phase := if s.oq = [] then .idle else .drain, oq := s.oq } := by
    by_cases hoq : s.oq = [] <;> simp [QueueLegal, hoq, hcap]
  exact inv_setQueue h (by simp [hrun]) _ _ hqueue

/-- The read that empties the queue leaves `DRAIN` (R192). -/
theorem dropHead_inv {s : State} (h : Inv s) {y : Byte} {rest : List Byte} (hoq : s.oq = y :: rest) :
    Inv (dropHead rest s) := by
  have ⟨_, _, _, ⟨hcap, hidle, _⟩, _⟩ := h
  have hbusy : s.phase ≠ .idle := fun hp => by simp [hidle hp] at hoq
  have hlen : rest.length ≤ s.cfg.oqcap := by
    simp only [hoq, List.length_cons] at hcap
    omega
  have hqueue : QueueLegal
      { s with phase := if s.phase = .drain ∧ rest = [] then .idle else s.phase, oq := rest } := by
    by_cases hr : rest = []
    · by_cases hp : s.phase = .drain <;> simp [QueueLegal, hr, hp]
    · simp [QueueLegal, hr, hlen, hbusy]
  exact inv_setQueue h hbusy _ _ hqueue

/-! ### Commands, registers, reset -/

theorem keyed_iff_opCode (op : Op) :
    keyed op = true ↔ opCode op = 3#3 ∨ opCode op = 4#3 ∨ opCode op = 5#3 := by
  cases op <;> decide

theorem opCode_legal (op : Op) : (opCode op).toNat ≤ 5 ∧ opCode op ≠ 0#3 := by
  cases op <;> decide

/-- An accepted command starts from a cleared datapath, and has a key where it needs one (R179, R180, R181). -/
theorem accept_inv {s : State} (h : Inv s) (hidle : s.phase = .idle) {op : Op} {dk : Bool}
    (hkey : keyed op = false ∨ dk = true ∨ s.klen ≠ 0x00#8) : Inv (accept op dk s) := by
  obtain ⟨hcfg, _, _, ⟨_, hempty, _⟩, _, _, _, hwf⟩ := h
  obtain ⟨hopr, hopr0⟩ := opCode_legal op
  have hqueue : QueueLegal (accept op dk s) := by simp [QueueLegal, hempty hidle]
  have hindex : KeyIndexLegal (accept op dk s) := by
    refine ⟨Nat.zero_le _, fun hk => ?_⟩
    have hkeyed : keyed op = true := (keyed_iff_opCode op).mpr hk.2
    have hpos : 1 ≤ eklen dk s := eklen_pos (by simpa [hkeyed] using hkey)
    exact ⟨hpos, hpos⟩
  exact ⟨hcfg, .inl rfl, ⟨.inl rfl, by simp⟩, hqueue, ⟨hopr, fun _ => hopr0⟩, hindex, by simp [StopLegal], hwf⟩

/-- In `IDLE` no keyed operation runs, so the key may change to anything canonical (R39, R43). -/
theorem inv_setKey {s : State} (h : Inv s) (hidle : s.phase = .idle) (n : Byte) {m : Memory}
    (hm : Memory.wf m = true) : Inv { s with klen := n, key := m } := by
  obtain ⟨hcfg, hcount, hres, hqueue, hcmd, ⟨hkidx, _⟩, hstop, _⟩ := h
  exact ⟨hcfg, hcount, hres, hqueue, hcmd, ⟨hkidx, fun hk => absurd hidle hk.1⟩, hstop, hm⟩

/-- Reset meets the invariant under any legal parameters (R46, R240). -/
theorem hardReset_inv {s : State} (hcfg : s.cfg.Valid) : Inv (hardReset s) :=
  ⟨hcfg, .inl rfl, ⟨.inl rfl, by simp⟩, ⟨Nat.zero_le _, fun _ => rfl, by simp⟩, ⟨Nat.zero_le _, by simp⟩,
    ⟨Nat.zero_le _, fun hk => absurd rfl hk.1⟩, by simp [StopLegal], reset_key_wf⟩

/-! ### The step -/

/-- Every outcome of an access keeps the invariant. The flags, the returned byte and the host's stream are no part of
it, which is why the first four outcomes keep it as it is. -/
theorem accessOutcome_inv {d : Except Reject Instr} {s t : State} (h : Inv s) (ho : AccessOutcome d s t) :
    Inv t := by
  have ⟨_, _, _, _, _, _, _, hwf⟩ := h
  cases ho with
  | answered | refused | failed | acknowledged => exact h
  | accepted op dk hidle hkey => exact accept_inv h hidle hkey
  | keyLengthSet n hidle => exact inv_setKey h hidle n hwf
  | keyByteSet i v hidle => exact inv_setKey h hidle s.klen (writeKey_wf i v s hwf)
  | itemTaken v _ hrun hroom => exact item_inv h hrun hroom v
  | inputEnded x _ hrun hroom =>
    obtain ⟨e, o, hflush⟩ := flush_frame s
    exact endInput_inv (flush_inv h hrun hroom) (by rw [hflush]; exact hrun)
  | itemReturned r y rest _ hoq => exact dropHead_inv h hoq

/-- Settles O13: a step holds the state, resets it, or has one of the outcomes of an access, and each keeps R45. -/
theorem stepKeepsTheInvariant : Obligations.StepKeepsTheInvariant := by
  unfold Obligations.StepKeepsTheInvariant
  intro s t h hstep
  have ⟨hcfg, _⟩ := h
  rcases step_cases hstep with ⟨_, rfl⟩ | ⟨rest, _, rfl⟩ | ⟨w, rest, i, hhost, _, _⟩ | ⟨w, rest, r, hhost, _, _⟩
  · exact h
  · exact hardReset_inv hcfg
  all_goals exact accessOutcome_inv (s := beginAccess rest s) h (step_outcome hhost hstep)

/-- Settles O12: the state after reset is what the reset event makes of it. -/
theorem resetMeetsTheInvariant : Obligations.ResetMeetsTheInvariant := by
  unfold Obligations.ResetMeetsTheInvariant
  have hcfg : State.reset.cfg.Valid := by decide
  exact hardReset_inv hcfg

end Sys2Proof.Machine
end

section
/-! What the outcomes of an access say of the key, of `STATE`, of the command registers and of the datapath registers
(10_state.md R21, R22, R23, R45 j). -/

namespace Sys2Proof.Machine

/-! ### The key while busy -/

theorem accessOutcome_key_of_busy {d : Except Reject Instr} {s t : State} (ho : AccessOutcome d s t)
    (hbusy : s.phase ≠ .idle) : t.klen = s.klen ∧ t.key = s.key := by
  cases ho with
  | answered | refused | failed | acknowledged | accepted | itemReturned => exact ⟨rfl, rfl⟩
  | keyLengthSet _ hidle | keyByteSet _ _ hidle => exact absurd hidle hbusy
  | itemTaken v =>
    obtain ⟨_, _, _, _, _, _, _, hitem⟩ := item_frame v s
    rw [hitem]
    exact ⟨rfl, rfl⟩
  | inputEnded =>
    obtain ⟨_, _, hflush⟩ := flush_frame s
    rw [hflush]
    exact ⟨rfl, rfl⟩

/-- Settles O14: the two outcomes that write the key stand under `IDLE`. -/
theorem busyKeepsTheKey : Obligations.BusyKeepsTheKey := by
  unfold Obligations.BusyKeepsTheKey
  intro s t w rest hhost hbusy hstep
  exact accessOutcome_key_of_busy (s := beginAccess rest s) (step_outcome hhost hstep) hbusy

/-! ### `STATE` -/

/-- The first stage of R102 leaves a command byte undecoded in a `CTRL` write and nowhere else. -/
theorem decodeBus_cmdw {w : BusWord} {c : Byte} (h : decodeBus w = .ok (.cmdw c)) :
    busW w = true ∧ busA w = 0x000#9 ∧ c = busD w := by
  unfold decodeBus at h
  split at h
  · next hw =>
    unfold decodeWrite at h
    split_ifs at h with _ hctrl
    · cases h
    · cases h
      exact ⟨hw, hctrl, rfl⟩
    all_goals cases h
  · unfold decodeRead at h
    split_ifs at h
    all_goals cases h

theorem decodeBus_ne_startInstr (w : BusWord) (op : Op) (dk : Bool) : decodeBus w ≠ .ok (startInstr op dk) := by
  intro h
  unfold decodeBus decodeWrite decodeRead at h
  split_ifs at h
  all_goals cases op <;> cases h

/-- The two stages of R102: a word decodes as format `BUS` alone, or is a `CTRL` write of a legal command byte. -/
theorem decodeAccess_cases (w : BusWord) :
    (decodeAccess w = decodeBus w ∧ ∀ c, decodeBus w = .ok (.cmdw c) → cmdOperation c = none) ∨
    (∃ op, decodeBus w = .ok (.cmdw (busD w)) ∧ cmdOperation (busD w) = some op ∧
      decodeAccess w = .ok (startInstr op (cmdDk (busD w)))) := by
  by_cases hbus : ∃ c, decodeBus w = .ok (.cmdw c)
  · obtain ⟨c, hbus⟩ := hbus
    obtain ⟨_, _, rfl⟩ := decodeBus_cmdw hbus
    cases hop : cmdOperation (busD w) with
    | none =>
      refine .inl ⟨by simp [decodeAccess, decodeCmd, hbus, hop], fun c hc => ?_⟩
      obtain ⟨_, _, rfl⟩ := decodeBus_cmdw hc
      exact hop
    | some op => exact .inr ⟨op, hbus, rfl, by simp [decodeAccess, decodeCmd, hbus, hop]⟩
  · refine .inl ⟨?_, fun c hc => absurd ⟨c, hc⟩ hbus⟩
    unfold decodeAccess
    split
    · next c hc => exact absurd ⟨c, hc⟩ hbus
    · rfl

/-- A `CTRL` write that stays the row `CMDW` carries a reserved byte (R102). -/
theorem cmdOperation_of_decodeAccess_cmdw {w : BusWord} {c : Byte} (h : decodeAccess w = .ok (.cmdw c)) :
    cmdOperation c = none := by
  rcases decodeAccess_cases w with ⟨heq, hnone⟩ | ⟨op, _, _, heq⟩
  · exact hnone c (heq ▸ h)
  · rw [heq] at h
    cases op <;> cases h

/-- A word runs as a command exactly as the `CTRL` write of that command's byte. -/
theorem decodeAccess_startInstr {w : BusWord} {op : Op} {dk : Bool} (h : decodeAccess w = .ok (startInstr op dk)) :
    busW w = true ∧ busA w = 0x000#9 ∧ cmdOperation (busD w) = some op ∧ cmdDk (busD w) = dk := by
  rcases decodeAccess_cases w with ⟨heq, _⟩ | ⟨op', hbus, hop, heq⟩
  · exact absurd (heq ▸ h) (decodeBus_ne_startInstr w op dk)
  · obtain ⟨hw, ha, _⟩ := decodeBus_cmdw hbus
    rw [heq] at h
    obtain ⟨rfl, hdk⟩ : op' = op ∧ cmdDk (busD w) = dk := by
      cases op' <;> cases op <;> cases h <;> exact ⟨rfl, rfl⟩
    exact ⟨hw, ha, hop, hdk⟩

/-- On a word of the host an accepted command is the row of that command, never `CMDW`. -/
theorem decodeAccess_of_accepted {w : BusWord} {op : Op} {dk : Bool}
    (hd : decodeAccess w = .ok (startInstr op dk) ∨
      ∃ c, decodeAccess w = .ok (.cmdw c) ∧ cmdOperation c = some op) :
    decodeAccess w = .ok (startInstr op dk) := by
  rcases hd with hd | ⟨c, hc, hop⟩
  · exact hd
  · rw [cmdOperation_of_decodeAccess_cmdw hc] at hop
    cases hop

/-- Settles O15: of the outcomes of an access only acceptance, the end of the input and the read of the last item in
`DRAIN` move `STATE`. -/
theorem stateChangesOnlyAsListed : Obligations.StateChangesOnlyAsListed := by
  unfold Obligations.StateChangesOnlyAsListed
  refine ⟨fun s t w rest hhost hstep hmoved => ?_, fun s t rest hhost hstep => ?_⟩
  · have ho := step_outcome hhost hstep
    generalize hd : decodeAccess w = d at ho
    cases ho with
    | answered | refused | failed | acknowledged | keyLengthSet | keyByteSet => exact absurd rfl hmoved
    | accepted op dk hidle _ hacc =>
      subst hd
      exact .inl ⟨hidle, rfl, op, dk, decodeAccess_of_accepted hacc⟩
    | itemTaken v =>
      obtain ⟨_, _, _, _, _, _, _, hitem⟩ := item_frame v (beginAccess rest s)
      exact absurd (by rw [hitem]; rfl) hmoved
    | inputEnded x hx hrun hroom =>
      refine .inr (.inl ⟨hrun, hroom, ⟨x, hx⟩, ?_⟩)
      by_cases hoq : (flush (beginAccess rest s)).oq = []
      · exact .inl ⟨by simp [hoq], hoq⟩
      · exact .inr ⟨by simp [hoq], hoq⟩
    | itemReturned r y items hr hoq =>
      have hlast : s.phase = .drain ∧ items = [] := by
        by_contra hmore
        exact hmoved (by simp [hmore])
      obtain ⟨hdrain, rfl⟩ := hlast
      exact .inr (.inr ⟨hdrain, by simp [hdrain], ⟨r, hr⟩, y, hoq⟩)
  · simp only [step, hhost] at hstep
    cases hstep
    rfl

/-! ### `OPR` and `DKR` -/

/-- The operation of a legal command byte is the one its bits 2:0 select (R92, R99). -/
theorem opCode_of_cmdOperation {c : Byte} {op : Op} (h : cmdOperation c = some op) :
    opCode op = c.extractLsb' 0 3 := by
  unfold cmdOperation at h
  split at h
  · exact opCode_of_opOfCode (cmdOp c) op h
  · cases h

theorem accessOutcome_command {d : Except Reject Instr} {s t : State} (ho : AccessOutcome d s t) :
    (t.opr = s.opr ∧ t.dkr = s.dkr) ∨
    (s.phase = .idle ∧ ∃ op dk, t = accept op dk s ∧
      (d = .ok (startInstr op dk) ∨ ∃ c, d = .ok (.cmdw c) ∧ cmdOperation c = some op)) := by
  cases ho with
  | answered | refused | failed | acknowledged | keyLengthSet | keyByteSet | itemReturned => exact .inl ⟨rfl, rfl⟩
  | accepted op dk hidle _ hd => exact .inr ⟨hidle, op, dk, rfl, hd⟩
  | itemTaken v =>
    obtain ⟨_, _, _, _, _, _, _, hitem⟩ := item_frame v s
    rw [hitem]
    exact .inl ⟨rfl, rfl⟩
  | inputEnded =>
    obtain ⟨_, _, hflush⟩ := flush_frame s
    rw [hflush]
    exact .inl ⟨rfl, rfl⟩

/-- Settles O16: only acceptance writes the two registers, and the word of an accepted command is a `CTRL` write whose
data byte carries its `OP` and `DK`. -/
theorem commandRegistersLatchAcceptedCommands : Obligations.CommandRegistersLatchAcceptedCommands := by
  unfold Obligations.CommandRegistersLatchAcceptedCommands
  intro s t w rest hhost hstep
  rcases accessOutcome_command (step_outcome hhost hstep) with hkept | ⟨hidle, op, dk, rfl, hd⟩
  · exact .inl hkept
  · obtain ⟨hw, ha, hop, hdk⟩ := decodeAccess_startInstr (decodeAccess_of_accepted hd)
    exact .inr ⟨hidle, rfl, hw, ha, opCode_of_cmdOperation hop, hdk.symm⟩

/-! ### The datapath registers -/

theorem raiseProtocolError_touchesOnlyItsRegisters (c : Cause) (s : State) :
    TouchesOnlyItsRegisters s (raiseProtocolError c s) := by
  simp [TouchesOnlyItsRegisters]

/-- Settles O42: an accepted `PUSH` is an item, an accepted `FIN` the flush, and a refused one sets `PERR` only. -/
theorem operationsTouchOnlyTheirRegisters : Obligations.OperationsTouchOnlyTheirRegisters := by
  unfold Obligations.OperationsTouchOnlyTheirRegisters
  rintro i s t (⟨v, rfl⟩ | ⟨x, rfl⟩) hexec
  · cases hexec
    show TouchesOnlyItsRegisters s (dinWrite v s)
    unfold dinWrite
    split
    · exact item_touchesOnlyItsRegisters v s
    · exact raiseProtocolError_touchesOnlyItsRegisters .p4 s
  · cases hexec
    show TouchesOnlyItsRegisters s (finWrite x s)
    unfold finWrite
    split
    · exact endInput_flush_touchesOnlyItsRegisters s
    · exact raiseProtocolError_touchesOnlyItsRegisters .p5 s

end Sys2Proof.Machine
end

section
/-! The host's registers (10_state.md R37 to R44), and that the two flags gate nothing (R34, R218). -/

namespace Sys2Proof.Machine

/-! ### `CTRL` and `STATUS` -/

/-- The bits of `CTRL` as read (R37). -/
theorem getLsbD_ctrlByte (s : State) (i : Nat) :
    (ctrlByte s).getLsbD i =
      if i < 3 then s.opr.getLsbD i else if i < 4 then s.dkr else false := by
  show (0b0000#4 ++ BitVec.ofBool s.dkr ++ s.opr : BitVec (4 + 1 + 3)).getLsbD i = _
  rw [BitVec.getLsbD_append, BitVec.getLsbD_append]
  by_cases h3 : i < 3
  · simp [h3]
  · by_cases h4 : i < 4
    · obtain rfl : i = 3 := by omega
      simp
    · have : ¬ i - 3 < 1 := by omega
      simp [h3, h4, this]

/-- Settles O27: the three fields, by the bits of the byte. -/
theorem ctrlReadsTheLastCommand : Obligations.CtrlReadsTheLastCommand := by
  unfold Obligations.CtrlReadsTheLastCommand
  intro d s
  refine ⟨ctrlByte s, rfl, ?_, ?_, ?_⟩
  · apply BitVec.eq_of_getLsbD_eq
    intro i hi
    have h3 : ¬ 4 + i < 3 := by omega
    have h4 : ¬ 4 + i < 4 := by omega
    simp [BitVec.getLsbD_extractLsb', getLsbD_ctrlByte, h3]
  · rw [getLsbD_ctrlByte]
    rfl
  · apply BitVec.eq_of_getLsbD_eq
    intro i hi
    simp [getLsbD_ctrlByte, hi]

/-- The eight bits of `STATUS` as read, from bit 0 up (R38). -/
theorem statusByte_bits (s : State) :
    (statusByte s).getLsbD 0 = busy s ∧ (statusByte s).getLsbD 1 = inRdy s ∧ (statusByte s).getLsbD 2 = outVld s ∧
    (statusByte s).getLsbD 3 = false ∧ (statusByte s).getLsbD 4 = s.ia ∧ (statusByte s).getLsbD 5 = s.perr ∧
    (statusByte s).getLsbD 6 = s.dstop ∧ (statusByte s).getLsbD 7 = false := by
  unfold statusByte
  generalize busy s = b0, inRdy s = b1, outVld s = b2, s.ia = b4, s.perr = b5, s.dstop = b6
  revert b0 b1 b2 b4 b5 b6
  decide

theorem busy_eq_decide (s : State) : busy s = decide (s.phase ≠ .idle) := by
  rw [Bool.eq_iff_iff, busy_eq_true, decide_eq_true_iff]

theorem inRdy_eq_decide (s : State) : inRdy s = decide (s.phase = .run ∧ HasRoom s) := by
  rw [Bool.eq_iff_iff, inRdy_iff, decide_eq_true_iff]

theorem outVld_eq_decide (s : State) : outVld s = decide (s.oq ≠ []) := by
  rw [outVld, decide_eq_decide]
  exact List.length_pos_iff

/-- A `STATUS` write keeps a flag exactly where its bit is zero (R38). -/
theorem acknowledge_eq (m : Byte) (s : State) :
    acknowledge m s = { s with
      ia := if m.getLsbD 4 then false else s.ia, perr := if m.getLsbD 5 then false else s.perr } := by
  unfold acknowledge
  cases m.getLsbD 4 <;> cases m.getLsbD 5 <;> simp

/-- Settles O28: the bits of the read byte with the status signals in the statement's terms, and the acknowledgement. -/
theorem statusReadsBitsAndClearsFlags : Obligations.StatusReadsBitsAndClearsFlags := by
  unfold Obligations.StatusReadsBitsAndClearsFlags
  refine ⟨fun d s => ⟨statusByte s, rfl, ?_⟩, fun m s => ?_⟩
  · rw [← busy_eq_decide, ← inRdy_eq_decide, ← outVld_eq_decide]
    exact statusByte_bits s
  · rw [exec_stclr, acknowledge_eq]

/-! ### `KLEN` and the key store -/

theorem idleWrite_of_idle {s : State} (hidle : s.phase = .idle) (t : State) :
    (if busy s then raiseProtocolError .p3 s else t) = t := by
  simp [(busy_eq_false s).mpr hidle]

theorem idleWrite_of_busy {s : State} (hbusy : s.phase ≠ .idle) (t : State) :
    (if busy s then raiseProtocolError .p3 s else t) = raiseProtocolError .p3 s := by
  simp [(busy_eq_true s).mpr hbusy]

/-- Settles O29: the read, the write in `IDLE` and the write that is refused. -/
theorem keyLengthRegister : Obligations.KeyLengthRegister := by
  unfold Obligations.KeyLengthRegister
  refine ⟨fun d s => rfl, fun n s hidle => ?_, fun n s hbusy => ?_⟩
  · rw [exec_klenw, idleWrite_of_idle hidle]
  · rw [exec_klenw, idleWrite_of_busy hbusy]
    rfl

/-- Address bit 8 selects the key store for both directions, its bits 7:0 the byte (R43, R102). -/
theorem decodeBus_of_keyStore {a : Addr} (ha : a.getLsbD 8 = true) (v : Byte) :
    decodeBus (rd a) = .ok (.keyr (a.extractLsb' 0 8) 0x00#8) ∧
    decodeBus (wr a v) = .ok (.keyw (a.extractLsb' 0 8) v) := by
  constructor
  · simp only [decodeBus, rd, busW_rdWith, busA_rdWith, busD_rdWith, decodeRead, ha, keyIndex, if_true,
      Bool.false_eq_true, if_false]
  · simp only [decodeBus, busW_wr, busA_wr, busD_wr, decodeWrite, ha, keyIndex, if_true]

/-- Settles O30: the addressing, and the law of reading after a write for the write that `IDLE` takes. -/
theorem keyStoreReadsAndWrites : Obligations.KeyStoreReadsAndWrites := by
  unfold Obligations.KeyStoreReadsAndWrites
  refine ⟨fun a v ha => decodeBus_of_keyStore ha v, fun i d s => rfl, fun i v s hidle => ?_,
    fun i v s hbusy => ?_⟩
  · have hexec : exec (.keyw i v) s = .next (writeKey i v s) := by rw [exec_keyw, idleWrite_of_idle hidle]
    refine ⟨writeKey i v s, hexec, rfl, ?_, fun j hj => ?_⟩
    · rw [readKey_writeKey, if_pos rfl]
    · rw [readKey_writeKey, if_neg hj]
  · rw [exec_keyw, idleWrite_of_busy hbusy]
    rfl

/-! ### Reserved addresses -/

/-- A reserved address is below the key store and is none of the six registers. -/
theorem reserved_address {a : Addr} (hlo : 0x006#9 ≤ a) (hhi : a ≤ 0x0FF#9) :
    a.getLsbD 8 = false ∧ a ≠ 0x000#9 ∧ a ≠ 0x001#9 ∧ a ≠ 0x002#9 ∧ a ≠ 0x003#9 ∧ a ≠ 0x004#9 ∧ a ≠ 0x005#9 := by
  have hbit : a.getLsbD 8 = false := by
    have hlt : a.toNat < 2 ^ 8 := Nat.lt_succ_of_le hhi
    exact Nat.testBit_lt_two_pow hlt
  refine ⟨hbit, ?_, ?_, ?_, ?_, ?_, ?_⟩
  all_goals
    rintro rfl
    exact absurd hlo (by decide)

theorem decodeAccess_of_reserved {a : Addr} (hlo : 0x006#9 ≤ a) (hhi : a ≤ 0x0FF#9) (v : Byte) :
    decodeAccess (rd a) = .error .refusedRead ∧ decodeAccess (wr a v) = .error .refusedWrite := by
  obtain ⟨hbit, h0, h1, h2, h3, h4, h5⟩ := reserved_address hlo hhi
  constructor
  · have hbus : decodeBus (rd a) = .error .refusedRead := by
      simp only [decodeBus, rd, busW_rdWith, busA_rdWith, decodeRead, hbit, h0, h1, h2, h4, Bool.false_eq_true,
        if_false]
    rw [decodeAccess, hbus]
  · have hbus : decodeBus (wr a v) = .error .refusedWrite := by
      simp only [decodeBus, busW_wr, busA_wr, decodeWrite, hbit, h0, h1, h2, h3, h5, if_true, Bool.false_eq_true,
        if_false]
    rw [decodeAccess, hbus]

/-- Settles O31: both words decode to nothing and are refused with cause P7. -/
theorem reservedAddressesAreRefused : Obligations.ReservedAddressesAreRefused := by
  unfold Obligations.ReservedAddressesAreRefused
  intro s a v rest hlo hhi
  obtain ⟨hread, hwrite⟩ := decodeAccess_of_reserved hlo hhi v
  exact ⟨fun hhost => step_of_decodeAccess_error hhost hread, fun hhost => step_of_decodeAccess_error hhost hwrite⟩

/-! ### The flags gate nothing -/

/-- The state with other values in `IA` and `PERR`. -/
def withFlags (a p : Bool) (s : State) : State := { s with ia := a, perr := p }

/-- An update that does the same under any flags, up to the flags (R34). -/
def FlagBlind (f : State → State) : Prop :=
  ∀ a p s, ∃ a' p', f (withFlags a p s) = withFlags a' p' (f s)

theorem flagBlind_of_commutes {f : State → State} (h : ∀ a p s, f (withFlags a p s) = withFlags a p (f s)) :
    FlagBlind f :=
  fun a p s => ⟨a, p, h a p s⟩

theorem FlagBlind.comp {f g : State → State} (hf : FlagBlind f) (hg : FlagBlind g) : FlagBlind (f ∘ g) := by
  intro a p s
  obtain ⟨a', p', h⟩ := hg a p s
  obtain ⟨a'', p'', h'⟩ := hf a' p' (g s)
  exact ⟨a'', p'', by rw [Function.comp_apply, h, h', Function.comp_apply]⟩

/-- A choice made without looking at the flags. -/
theorem FlagBlind.ite {c : State → Bool} {f g : State → State} (hc : ∀ a p s, c (withFlags a p s) = c s)
    (hf : FlagBlind f) (hg : FlagBlind g) : FlagBlind fun s => if c s then f s else g s := by
  intro a p s
  simp only [hc]
  split
  · exact hf a p s
  · exact hg a p s

theorem raiseProtocolError_flagBlind (c : Cause) : FlagBlind (raiseProtocolError c) :=
  fun a _ _ => ⟨a, true, rfl⟩

theorem raiseInvalidArgument_flagBlind : FlagBlind raiseInvalidArgument :=
  fun _ p _ => ⟨true, p, rfl⟩

theorem checkKeyAndAccept_flagBlind (op : Op) (dk : Bool) : FlagBlind (checkKeyAndAccept op dk) :=
  .ite (fun _ _ _ => rfl) raiseInvalidArgument_flagBlind (flagBlind_of_commutes fun _ _ _ => rfl)

theorem startCommand_flagBlind (op : Op) (dk : Bool) : FlagBlind (startCommand op dk) :=
  .ite (fun _ _ _ => rfl) (raiseProtocolError_flagBlind .p1) (checkKeyAndAccept_flagBlind op dk)

theorem commandWrite_flagBlind (c : Byte) : FlagBlind (commandWrite c) := by
  refine .ite (fun _ _ _ => rfl) (raiseProtocolError_flagBlind .p1) ?_
  cases cmdOperation c with
  | none => exact raiseProtocolError_flagBlind .p2
  | some op => exact checkKeyAndAccept_flagBlind op (cmdDk c)

theorem encStep_withFlags (x : Byte) (a p : Bool) (s : State) :
    encStep x (withFlags a p s) = withFlags a p (encStep x s) := by
  by_cases h0 : s.ecnt = 0#2
  · simp [encStep, withFlags, h0, ebufLo]
  · by_cases h1 : s.ecnt = 1#2
    · simp [encStep, withFlags, h1, ebufHi]
    · simp [encStep, withFlags, h0, h1, emitAll]

theorem encFlush_withFlags (a p : Bool) (s : State) : encFlush (withFlags a p s) = withFlags a p (encFlush s) := by
  by_cases h1 : s.ecnt = 1#2
  · simp [encFlush, withFlags, h1, ebufHi, emitAll]
  · by_cases h2 : s.ecnt = 2#2
    · simp [encFlush, withFlags, h2, ebufHi, ebufLo, emitAll]
    · simp [encFlush, withFlags, h1, h2]

theorem decSymbol_withFlags (v : BitVec 6) (a p : Bool) (s : State) :
    decSymbol v (withFlags a p s) = ((decSymbol v s).1, withFlags a p (decSymbol v s).2) := by
  by_cases hbyte : 8 ≤ s.dnb.toNat + 6
  · simp [decSymbol, withFlags, hbyte]
  · simp [decSymbol, withFlags, hbyte]

theorem decStep_withFlags (c : Byte) (a p : Bool) (s : State) :
    decStep c (withFlags a p s) = ((decStep c s).1, withFlags a p (decStep c s).2) := by
  unfold decStep
  cases hstop : s.dstop with
  | true => simp [withFlags, hstop]
  | false =>
    cases cls c with
    | sym v => simpa [withFlags, hstop] using decSymbol_withFlags v a p s
    | pad | skip => simp [withFlags, hstop]

theorem item_flagBlind (v : Byte) : FlagBlind (item v) := by
  refine flagBlind_of_commutes fun a p s => ?_
  have hopr : (withFlags a p s).opr = s.opr := rfl
  unfold item
  rw [hopr, decStep_withFlags]
  cases opOfCode s.opr with
  | none => rfl
  | some op =>
    cases op with
    | b64e => exact encStep_withFlags v a p s
    | b64d => dsimp only; cases (decStep v s).1 <;> rfl
    | xort => rfl
    | aenc => exact encStep_withFlags _ a p (xorStep v s).2
    | adec => dsimp only; cases (decStep v s).1 <;> rfl

theorem flush_flagBlind : FlagBlind flush := by
  refine flagBlind_of_commutes fun a p s => ?_
  have hopr : (withFlags a p s).opr = s.opr := rfl
  unfold flush
  rw [hopr]
  cases opOfCode s.opr with
  | none => rfl
  | some op =>
    cases op with
    | b64e | aenc => exact encFlush_withFlags a p s
    | b64d | xort | adec => rfl

theorem dinWrite_flagBlind (v : Byte) : FlagBlind (dinWrite v) :=
  .ite (fun _ _ _ => rfl) (item_flagBlind v) (raiseProtocolError_flagBlind .p4)

theorem finWrite_flagBlind (x : Byte) : FlagBlind (finWrite x) :=
  .ite (fun _ _ _ => rfl) (.comp (f := endInput) (flagBlind_of_commutes fun _ _ _ => rfl) flush_flagBlind)
    (raiseProtocolError_flagBlind .p5)

theorem doutRead_flagBlind : FlagBlind doutRead := by
  intro a p s
  have hoq : (withFlags a p s).oq = s.oq := rfl
  unfold doutRead
  rw [hoq]
  cases s.oq with
  | nil => exact ⟨a, true, rfl⟩
  | cons y rest => exact ⟨a, p, rfl⟩

theorem acknowledge_flagBlind (m : Byte) : FlagBlind (acknowledge m) :=
  fun _ _ _ => ⟨_, _, rfl⟩

/-- Every instruction but the `STATUS` read is an update that does not look at the flags. -/
theorem exec_flagBlind (i : Instr) (hi : ∀ d, i ≠ .statr d) :
    ∃ f, FlagBlind f ∧ ∀ s, exec i s = .next (f s) := by
  cases i with
  | b64e dk | b64d dk | xort dk | aenc dk | adec dk => exact ⟨_, startCommand_flagBlind _ dk, fun _ => rfl⟩
  | cmdw c => exact ⟨_, commandWrite_flagBlind c, fun _ => rfl⟩
  | ctrlr | klenr | keyr => exact ⟨_, flagBlind_of_commutes fun _ _ _ => rfl, fun _ => rfl⟩
  | statr d => exact absurd rfl (hi d)
  | stclr m => exact ⟨_, acknowledge_flagBlind m, fun _ => rfl⟩
  | klenw n | keyw k v =>
    exact ⟨_, .ite (fun _ _ _ => rfl) (raiseProtocolError_flagBlind .p3) (flagBlind_of_commutes fun _ _ _ => rfl),
      fun _ => rfl⟩
  | push v => exact ⟨_, dinWrite_flagBlind v, fun _ => rfl⟩
  | pop r => exact ⟨_, doutRead_flagBlind, fun _ => rfl⟩
  | fin x => exact ⟨_, finWrite_flagBlind x, fun _ => rfl⟩

/-- Settles O33: the update an instruction makes, with other flags in the state it starts from. -/
theorem flagsGateNothing : Obligations.FlagsGateNothing := by
  unfold Obligations.FlagsGateNothing
  intro i s t a p hi hexec
  obtain ⟨f, hblind, hf⟩ := exec_flagBlind i hi
  rw [hf] at hexec
  cases hexec
  obtain ⟨a', p', h⟩ := hblind a p s
  exact ⟨a', p', by rw [hf]; exact congrArg _ h⟩

end Sys2Proof.Machine
end

section
/-! The encoder's incomplete group (10_state.md R28), three bytes at a time. -/

namespace Sys2Proof.Machine

/-- The first byte of a group is held in `EBUF[15:8]` (R124). -/
theorem encStep_first {s : State} (h : s.ecnt = 0#2) (x : Byte) :
    encStep x s = { s with ebuf := x ++ ebufLo s, ecnt := 1#2 } := by
  simp [encStep, h]

/-- The second byte of a group is held under the first (R124). -/
theorem encStep_pair {s : State} (h : s.ecnt = 0#2) (x y : Byte) :
    encStep y (encStep x s) = { s with ebuf := x ++ y, ecnt := 2#2 } := by
  simp [encStep, h, ebufHi, ebufHi_pair]

/-- A full group emits its four characters and holds nothing (R120, R124). -/
theorem encStep_group {s : State} (h : s.ecnt = 0#2) (x y z : Byte) :
    encStep z (encStep y (encStep x s)) =
      { s with ebuf := x ++ y, ecnt := 0#2, oq := s.oq ++ encFull x y z } := by
  rw [encStep_pair h]
  simp [encStep, emitAll, encFull]

/-- A suffix that does not reach into the first three bytes. -/
theorem drop_group (x y z : Byte) (rest : List Byte) {k : Nat} (hk : k ≤ rest.length) :
    (x :: y :: z :: rest).drop ((x :: y :: z :: rest).length - k) = rest.drop (rest.length - k) := by
  have hlen : (x :: y :: z :: rest).length - k = rest.length - k + 3 := by
    simp only [List.length_cons]
    omega
  rw [hlen]
  rfl

/-- Settles O53, by induction on the groups of three as `b64enc` takes them. -/
theorem encoderHoldsTheIncompleteGroup : Obligations.EncoderHoldsTheIncompleteGroup := by
  unfold Obligations.EncoderHoldsTheIncompleteGroup
  intro bs
  induction bs using b64enc.induct with
  | case1 x y z rest ih =>
    intro s h
    have hsteps : encSteps (x :: y :: z :: rest) s =
        encSteps rest { s with ebuf := x ++ y, ecnt := 0#2, oq := s.oq ++ encFull x y z } := by
      simp only [encSteps, encStep_group h]
    obtain ⟨hcount, hout, hone, htwo⟩ := ih { s with ebuf := x ++ y, ecnt := 0#2, oq := s.oq ++ encFull x y z } rfl
    have hlen : (x :: y :: z :: rest).length = rest.length + 3 := rfl
    have hmod : (x :: y :: z :: rest).length % 3 = rest.length % 3 := by omega
    have hfour : (encFull x y z).length = 4 := rfl
    rw [hsteps, hmod]
    refine ⟨hcount, ?_, fun h1 => ?_, fun h2 => ?_⟩
    · rw [hout, List.length_append, hfour, hlen]
      omega
    · rw [drop_group x y z rest (by omega)]
      exact hone h1
    · rw [drop_group x y z rest (by omega)]
      exact htwo h2
  | case2 x y =>
    intro s h
    simp [encSteps, encStep_pair h, ebufHi_pair, ebufLo_pair]
  | case3 x =>
    intro s h
    simp [encSteps, encStep_first h, ebufHi_pair]
  | case4 =>
    intro s h
    simp [encSteps, h]

end Sys2Proof.Machine
end

section
/-! Every step answers (20_memory.md R61, 00_scope.md R18), so an access of the host's is the machine's own step. -/

namespace Sys2Proof.Machine

/-- With nothing pending the block holds its state (R18, R226; log entry 1). -/
theorem step_of_host_nil {s : State} (hhost : s.host = []) : step s = .next s := by
  simp only [step, hhost]

theorem step_of_reset {s : State} {rest : List HostEvent} (hhost : s.host = .reset :: rest) :
    step s = .next (hardReset { s with host := rest }) := by
  simp only [step, hhost]

/-- No instruction faults and none is refused (R61, R193). -/
theorem exec_answers (i : Instr) (s : State) : ∃ t, exec i s = .next t := by
  cases i
  all_goals exact ⟨_, rfl⟩

theorem step_answers (s : State) : ∃ t, step s = .next t := by
  cases hhost : s.host with
  | nil => exact ⟨s, step_of_host_nil hhost⟩
  | cons event rest =>
    cases event with
    | reset => exact ⟨_, step_of_reset hhost⟩
    | access w =>
      cases hdec : decodeAccess w with
      | ok i =>
        rw [step_of_decodeAccess_ok hhost hdec]
        exact exec_answers i _
      | error r => exact ⟨_, step_of_decodeAccess_error hhost hdec⟩

/-- Settles O9: the step by the oldest event of the host's stream, and on the empty stream. -/
theorem everyStepAnswersNext : Obligations.EveryStepAnswersNext := by
  unfold Obligations.EveryStepAnswersNext
  exact ⟨step_answers, fun _ => step_of_host_nil⟩

/-- Issuing an access is the step on it: the case in which `issue` would keep the old state never arises. -/
theorem step_eq_issue (w : BusWord) (s : State) : step { s with host := [.access w] } = .next (issue w s) := by
  obtain ⟨t, hstep⟩ := step_answers { s with host := [.access w] }
  simp only [issue, hstep]

theorem issue_of_decodeAccess_ok {w : BusWord} {i : Instr} (hdec : decodeAccess w = .ok i) (s : State) :
    exec i (beginAccess [] s) = .next (issue w s) := by
  rw [← step_eq_issue, step_of_decodeAccess_ok rfl hdec]
  rfl

theorem issue_of_decodeAccess_error {w : BusWord} {r : Reject} (hdec : decodeAccess w = .error r) (s : State) :
    issue w s = refuseAccess r (beginAccess [] s) :=
  Host.Outcome.next.inj ((step_eq_issue w s).symm.trans (step_of_decodeAccess_error rfl hdec))

end Sys2Proof.Machine
end

section
/-! A command forgets the past (20_memory.md R75, 70_reset_and_hazards.md R242): two states that agree on what an access
can still be affected by keep agreeing, access by access. -/

namespace Sys2Proof.Machine

/-- The states agree on all that bears on the commands to come: on the parameters, the key, `STATE` and the queue, and
while a command runs on its registers. What an earlier command left behind in `IDLE` and the flags may differ. Where the
host's register reads are `watched`, what they show agrees too (R37, R38), with the byte the last access returned. -/
structure Agree (watched : Prop) (s s' : State) : Prop where
  cfg : s'.cfg = s.cfg
  phase : s'.phase = s.phase
  klen : s'.klen = s.klen
  key : s'.key = s.key
  oq : s'.oq = s.oq
  host : s'.host = s.host
  running : s.phase ≠ .idle → s'.opr = s.opr ∧ s'.dkr = s.dkr ∧ s'.ebuf = s.ebuf ∧ s'.ecnt = s.ecnt ∧
    s'.dacc = s.dacc ∧ s'.dnb = s.dnb ∧ s'.dstop = s.dstop ∧ s'.kidx = s.kidx
  shown : watched → s'.opr = s.opr ∧ s'.dkr = s.dkr ∧ s'.dstop = s.dstop ∧ s'.ia = s.ia ∧ s'.perr = s.perr ∧
    s'.rdata = s.rdata

namespace Agree

theorem refl (watched : Prop) (s : State) : Agree watched s s :=
  ⟨rfl, rfl, rfl, rfl, rfl, rfl, fun _ => ⟨rfl, rfl, rfl, rfl, rfl, rfl, rfl, rfl⟩,
    fun _ => ⟨rfl, rfl, rfl, rfl, rfl, rfl⟩⟩

variable {watched : Prop} {s s' : State}

/-- Unwatched, the flags are no part of the agreement. -/
theorem withFlags (hw : ¬ watched) (a p : Bool) : Agree watched s (withFlags a p s) :=
  ⟨rfl, rfl, rfl, rfl, rfl, rfl, fun _ => ⟨rfl, rfl, rfl, rfl, rfl, rfl, rfl, rfl⟩, fun h => absurd h hw⟩

/-- While a command runs, the states agree on everything but the flags. -/
theorem eq_withFlags (h : Agree watched s s') (hrdata : s'.rdata = s.rdata) (hbusy : s.phase ≠ .idle) :
    s' = Machine.withFlags s'.ia s'.perr s := by
  obtain ⟨hcfg, hphase, hklen, hkey, hoq, hhost, hrunning, _⟩ := h
  obtain ⟨hopr, hdkr, hebuf, hecnt, hdacc, hdnb, hdstop, hkidx⟩ := hrunning hbusy
  cases s
  cases s'
  simp_all [Machine.withFlags]

/-- The next access begins: its stream and its returned byte are new (log entries 1, 3). -/
theorem beginAccess (h : Agree watched s s') (rest : List HostEvent) :
    Agree watched (beginAccess rest s) (beginAccess rest s') where
  __ := h
  host := rfl
  shown hw :=
    have ⟨hopr, hdkr, hdstop, hia, hperr, _⟩ := h.shown hw
    ⟨hopr, hdkr, hdstop, hia, hperr, rfl⟩

/-! ### The status signals -/

theorem busy_eq (h : Agree watched s s') : busy s' = busy s := by
  rw [busy, busy, h.phase]

theorem outVld_eq (h : Agree watched s s') : outVld s' = outVld s := by
  rw [outVld, outVld, h.oq]

theorem inRdy_eq (h : Agree watched s s') : inRdy s' = inRdy s := by
  rw [inRdy, inRdy, h.phase, h.cfg, h.oq]

theorem ctrlByte_eq (h : Agree watched s s') (hw : watched) : ctrlByte s' = ctrlByte s := by
  obtain ⟨hopr, hdkr, _⟩ := h.shown hw
  rw [ctrlByte, ctrlByte, hopr, hdkr]

theorem statusByte_eq (h : Agree watched s s') (hw : watched) : statusByte s' = statusByte s := by
  obtain ⟨_, _, hdstop, hia, hperr, _⟩ := h.shown hw
  rw [statusByte, statusByte, hdstop, hia, hperr, h.outVld_eq, h.inRdy_eq, h.busy_eq]

/-! ### The named updates -/

theorem respond (h : Agree watched s s') {v v' : Byte} (hv : watched → v' = v) :
    Agree watched (respond v s) (respond v' s') where
  __ := h
  shown hw :=
    have ⟨hopr, hdkr, hdstop, hia, hperr, _⟩ := h.shown hw
    ⟨hopr, hdkr, hdstop, hia, hperr, congrArg some (hv hw)⟩

theorem raiseProtocolError (h : Agree watched s s') (c : Cause) :
    Agree watched (raiseProtocolError c s) (raiseProtocolError c s') where
  __ := h
  shown hw :=
    have ⟨hopr, hdkr, hdstop, hia, _, hrdata⟩ := h.shown hw
    ⟨hopr, hdkr, hdstop, hia, rfl, hrdata⟩

theorem raiseInvalidArgument (h : Agree watched s s') :
    Agree watched (raiseInvalidArgument s) (raiseInvalidArgument s') where
  __ := h
  shown hw :=
    have ⟨hopr, hdkr, hdstop, _, hperr, hrdata⟩ := h.shown hw
    ⟨hopr, hdkr, hdstop, rfl, hperr, hrdata⟩

theorem refuseRead (h : Agree watched s s') (c : Cause) : Agree watched (refuseRead c s) (refuseRead c s') :=
  (h.raiseProtocolError c).respond fun _ => rfl

theorem refuseAccess (h : Agree watched s s') (r : Reject) :
    Agree watched (refuseAccess r s) (refuseAccess r s') := by
  cases r with
  | reservedCommand => exact h.raiseProtocolError .p2
  | refusedRead => exact h.refuseRead .p7
  | refusedWrite => exact h.raiseProtocolError .p7

theorem acknowledge (h : Agree watched s s') (m : Byte) :
    Agree watched (acknowledge m s) (acknowledge m s') where
  __ := h
  shown hw :=
    have ⟨hopr, hdkr, hdstop, hia, hperr, hrdata⟩ := h.shown hw
    ⟨hopr, hdkr, hdstop, congrArg (· && _) hia, congrArg (· && _) hperr, hrdata⟩

theorem setKeyLength (h : Agree watched s s') (n : Byte) :
    Agree watched { s with klen := n } { s' with klen := n } where
  __ := h
  klen := rfl

theorem writeKey (h : Agree watched s s') (i v : Byte) : Agree watched (writeKey i v s) (writeKey i v s') where
  __ := h
  key := congrArg (Memory.write · i.toNat v) h.key

/-- Here the past is forgotten: acceptance writes every register that may have differed (R180, R181). -/
theorem accept (h : Agree watched s s') (op : Op) (dk : Bool) :
    Agree watched (accept op dk s) (accept op dk s') where
  __ := h
  phase := rfl
  running _ := ⟨rfl, rfl, rfl, rfl, rfl, rfl, rfl, rfl⟩
  shown hw :=
    have ⟨_, _, _, hia, hperr, hrdata⟩ := h.shown hw
    ⟨rfl, rfl, rfl, hia, hperr, hrdata⟩

theorem dropHead (h : Agree watched s s') (rest : List Byte) :
    Agree watched (dropHead rest s) (dropHead rest s') where
  __ := h
  phase := by rw [dropHead_phase, dropHead_phase, h.phase]
  oq := rfl
  running hbusy := h.running fun hidle => hbusy (by simp [hidle])

/-- While a command runs, an update that does not look at the flags keeps the agreement. -/
theorem of_flagBlind (h : Agree watched s s') (hrdata : s'.rdata = s.rdata) (hbusy : s.phase ≠ .idle)
    {f : State → State} (hf : FlagBlind f) : Agree watched (f s) (f s') := by
  have hflags := h.eq_withFlags hrdata hbusy
  by_cases hw : watched
  · obtain ⟨_, _, _, hia, hperr, _⟩ := h.shown hw
    have hsame : s' = s := by
      rw [hflags, hia, hperr]
      rfl
    rw [hsame]
    exact refl watched (f s)
  · obtain ⟨a, p, hfs⟩ := hf s'.ia s'.perr s
    rw [hflags, hfs]
    exact withFlags hw a p

/-! ### The accesses -/

theorem checkKeyAndAccept (h : Agree watched s s') (op : Op) (dk : Bool) :
    Agree watched (checkKeyAndAccept op dk s) (checkKeyAndAccept op dk s') := by
  unfold Machine.checkKeyAndAccept
  rw [h.klen]
  split
  · exact h.raiseInvalidArgument
  · exact h.accept op dk

theorem startCommand (h : Agree watched s s') (op : Op) (dk : Bool) :
    Agree watched (startCommand op dk s) (startCommand op dk s') := by
  unfold Machine.startCommand
  rw [h.busy_eq]
  split
  · exact h.raiseProtocolError .p1
  · exact h.checkKeyAndAccept op dk

theorem commandWrite (h : Agree watched s s') (c : Byte) :
    Agree watched (commandWrite c s) (commandWrite c s') := by
  unfold Machine.commandWrite
  rw [h.busy_eq]
  split
  · exact h.raiseProtocolError .p1
  · cases cmdOperation c with
    | none => exact h.raiseProtocolError .p2
    | some op => exact h.checkKeyAndAccept op (cmdDk c)

/-- A register write that only `IDLE` takes. -/
theorem idleWrite (h : Agree watched s s') {t t' : State} (ht : Agree watched t t') :
    Agree watched (if busy s then Machine.raiseProtocolError .p3 s else t)
      (if busy s' then Machine.raiseProtocolError .p3 s' else t') := by
  rw [h.busy_eq]
  split
  · exact h.raiseProtocolError .p3
  · exact ht

/-- A stream write, taken with `IN_RDY` and so only while a command runs. -/
theorem streamWrite (h : Agree watched s s') (hrdata : s'.rdata = s.rdata) (c : Cause) {f : State → State}
    (hf : FlagBlind f) :
    Agree watched (if inRdy s then f s else Machine.raiseProtocolError c s)
      (if inRdy s' then f s' else Machine.raiseProtocolError c s') := by
  rw [h.inRdy_eq]
  split
  · next hrdy =>
    obtain ⟨hrun, _⟩ := (inRdy_iff s).mp hrdy
    exact h.of_flagBlind hrdata (by simp [hrun]) hf
  · exact h.raiseProtocolError c

theorem doutRead (h : Agree watched s s') : Agree watched (doutRead s) (doutRead s') := by
  unfold Machine.doutRead
  rw [h.oq]
  cases s.oq with
  | nil => exact h.refuseRead .p6
  | cons y rest => exact (h.dropHead rest).respond fun _ => rfl

/-- Every instruction keeps the agreement of the states it starts from. -/
theorem exec (h : Agree watched s s') (hrdata : s'.rdata = s.rdata) {i : Instr} {t t' : State}
    (ht : exec i s = .next t) (ht' : exec i s' = .next t') : Agree watched t t' := by
  cases i with
  | b64e dk | b64d dk | xort dk | aenc dk | adec dk => cases ht; cases ht'; exact h.startCommand _ dk
  | cmdw c => cases ht; cases ht'; exact h.commandWrite c
  | ctrlr => cases ht; cases ht'; exact h.respond h.ctrlByte_eq
  | statr => cases ht; cases ht'; exact h.respond h.statusByte_eq
  | stclr m => cases ht; cases ht'; exact h.acknowledge m
  | klenr => cases ht; cases ht'; exact h.respond fun _ => h.klen
  | klenw n => cases ht; cases ht'; exact h.idleWrite (h.setKeyLength n)
  | push v => cases ht; cases ht'; exact h.streamWrite hrdata .p4 (item_flagBlind v)
  | pop => cases ht; cases ht'; exact h.doutRead
  | fin x =>
    cases ht
    cases ht'
    have hend : FlagBlind endInput := flagBlind_of_commutes fun _ _ _ => rfl
    exact h.streamWrite hrdata .p5 (hend.comp flush_flagBlind)
  | keyr k => cases ht; cases ht'; exact h.respond fun _ => congrArg (Memory.read · k.toNat) h.key
  | keyw k v => cases ht; cases ht'; exact h.idleWrite (h.writeKey k v)

/-- An access keeps the agreement, whatever the two accesses before returned. -/
theorem issue (h : Agree watched (Machine.beginAccess [] s) (Machine.beginAccess [] s')) (w : BusWord) :
    Agree watched (issue w s) (issue w s') := by
  cases hdec : decodeAccess w with
  | ok i => exact h.exec rfl (issue_of_decodeAccess_ok hdec s) (issue_of_decodeAccess_ok hdec s')
  | error r =>
    rw [issue_of_decodeAccess_error hdec, issue_of_decodeAccess_error hdec]
    exact h.refuseAccess r

/-- Two `IDLE` states with the same parameters and key agree at the next access, unwatched (R75). -/
theorem of_idle (hs : Inv s) (hs' : Inv s') (hidle : s.phase = .idle) (hidle' : s'.phase = .idle)
    (hcfg : s.cfg = s'.cfg) (hkey : s.key = s'.key) (hklen : s.klen = s'.klen)
    (hshown : watched → s'.opr = s.opr ∧ s'.dkr = s.dkr ∧ s'.dstop = s.dstop ∧ s'.ia = s.ia ∧ s'.perr = s.perr) :
    Agree watched (Machine.beginAccess [] s) (Machine.beginAccess [] s') := by
  obtain ⟨_, _, _, ⟨_, hempty, _⟩, _⟩ := hs
  obtain ⟨_, _, _, ⟨_, hempty', _⟩, _⟩ := hs'
  have hoq : s'.oq = s.oq := by rw [hempty hidle, hempty' hidle']
  refine ⟨hcfg.symm, hidle'.trans hidle.symm, hklen.symm, hkey.symm, hoq, rfl, fun hbusy => absurd hidle hbusy,
    fun hw => ?_⟩
  obtain ⟨hopr, hdkr, hdstop, hia, hperr⟩ := hshown hw
  exact ⟨hopr, hdkr, hdstop, hia, hperr, rfl⟩

end Agree

/-! ### What the host observes (R62) -/

theorem decodeAccess_of_isPop {w : BusWord} (h : isPop w = true) : decodeAccess w = .ok (.pop (busD w)) := by
  obtain ⟨hread, haddr⟩ : busW w = false ∧ busA w = 0x004#9 := by simpa [isPop] using h
  simp [decodeAccess, decodeBus, decodeRead, hread, haddr]

/-- A `DOUT` read issued is the read of the state in which it has begun. -/
theorem issue_of_isPop {w : BusWord} (h : isPop w = true) (s : State) :
    issue w s = doutRead (beginAccess [] s) :=
  Host.Outcome.next.inj (issue_of_decodeAccess_ok (decodeAccess_of_isPop h) s).symm

/-- The output item of an access is the head of the queue (R62, R192). -/
theorem returnedOutput_eq (w : BusWord) (s : State) :
    returnedOutput w s = if isPop w then s.oq.take 1 else [] := by
  unfold returnedOutput
  cases hpop : isPop w with
  | false => rfl
  | true =>
    rw [issue_of_isPop hpop]
    cases hoq : s.oq <;> simp [outVld, doutRead, hoq]

/-- From states that agree, the same accesses carry the same sequences and end the command at the same access. -/
theorem observe_of_agree (ws : List BusWord) {s s' : State}
    (h : Agree False (beginAccess [] s) (beginAccess [] s')) : observe ws s = observe ws s' := by
  induction ws generalizing s s' with
  | nil => rfl
  | cons w ws ih =>
    have hnext := h.issue w
    have hin : acceptedInput w s' = acceptedInput w s := by
      have hrdy : inRdy s' = inRdy s := h.inRdy_eq
      rw [acceptedInput, acceptedInput, hrdy]
    have hout : returnedOutput w s' = returnedOutput w s := by
      have hoq : s'.oq = s.oq := h.oq
      rw [returnedOutput_eq, returnedOutput_eq, hoq]
    rw [observe, observe, hnext.busy_eq, hin, hout, ih (hnext.beginAccess [])]

/-- From states that agree also on what is shown, the same accesses return the same bytes. -/
theorem returnedBytes_of_agree (ws : List BusWord) {s s' : State}
    (h : Agree True (beginAccess [] s) (beginAccess [] s')) : returnedBytes ws s = returnedBytes ws s' := by
  induction ws generalizing s s' with
  | nil => rfl
  | cons w ws ih =>
    have hnext := h.issue w
    obtain ⟨_, _, _, _, _, hrdata⟩ := hnext.shown trivial
    rw [returnedBytes, returnedBytes, hrdata, ih (hnext.beginAccess [])]

/-- Settles O58: two `IDLE` states agree at the next access, unwatched for what a command carries and watched for every
byte the host can read, and every access keeps the agreement. -/
theorem commandsAreIndependent : Obligations.CommandsAreIndependent := by
  unfold Obligations.CommandsAreIndependent
  refine ⟨fun s s' op dk ws hs hs' hidle hidle' hcfg hkey hklen => ?_,
    fun s s' ws hs hs' hidle hidle' hcfg hkey hklen hopr hdkr hdstop hia hperr => ?_⟩
  · have hagree : Agree False (beginAccess [] s) (beginAccess [] s') :=
      .of_idle hs hs' hidle hidle' hcfg hkey hklen False.elim
    exact observe_of_agree ws ((hagree.issue (startWord op dk)).beginAccess [])
  · have hagree : Agree True (beginAccess [] s) (beginAccess [] s') :=
      .of_idle hs hs' hidle hidle' hcfg hkey hklen
        fun _ => ⟨hopr.symm, hdkr.symm, hdstop.symm, hia.symm, hperr.symm⟩
    exact returnedBytes_of_agree ws hagree

end Sys2Proof.Machine
end

section
/-! Decoding and encoding (30_encoding.md R91, R93, R99, R102): each format read back from its fields, and the rows of
the table as what the decoder follows. -/

namespace Sys2Proof

/-! ### Command bytes -/

/-- A command byte is its three fields (R91). -/
theorem cmdFields_append (c : Byte) : cmdZero c ++ BitVec.ofBool (cmdDk c) ++ cmdOp c = c := by
  apply BitVec.eq_of_getLsbD_eq
  intro i hi
  rw [BitVec.getLsbD_append, BitVec.getLsbD_append]
  interval_cases i <;> simp [cmdZero, cmdDk, cmdOp]

/-- A byte starts an operation exactly where it is that operation's own byte (R91, R99). -/
theorem cmdOperation_eq_some_iff (c : Byte) (op : Op) :
    cmdOperation c = some op ↔ cmdByte op (cmdDk c) = c := by
  constructor
  · intro h
    unfold cmdOperation at h
    split at h
    · next hzero =>
      have hop := Machine.opCode_of_opOfCode (cmdOp c) op h
      rw [cmdByte, hop, ← hzero, cmdFields_append]
    · cases h
  · intro h
    rw [← h, Machine.cmdOperation_cmdByte]

theorem decodeCmd_of_cmdOperation {c : Byte} {op : Op} (h : cmdOperation c = some op) :
    decodeCmd c = .ok (startInstr op (cmdDk c)) := by
  rw [decodeCmd, h]

/-- The decoder of format `CMD` has two outcomes: the row of the byte's operation, or the one reason to reject it. -/
theorem decodeCmd_cases (c : Byte) :
    (∃ op, cmdOperation c = some op ∧ decodeCmd c = .ok (startInstr op (cmdDk c))) ∨
    (cmdOperation c = none ∧ decodeCmd c = .error .reservedCommand) := by
  cases h : cmdOperation c with
  | some op => exact .inl ⟨op, rfl, decodeCmd_of_cmdOperation h⟩
  | none => exact .inr ⟨rfl, by rw [decodeCmd, h]⟩

theorem encode_startInstr (op : Op) (dk : Bool) : encode (startInstr op dk) = .cmd (cmdByte op dk) := by
  cases op
  all_goals rfl

theorem decodeCmd_cmdByte (op : Op) (dk : Bool) : decodeCmd (cmdByte op dk) = .ok (startInstr op dk) := by
  rw [decodeCmd_of_cmdOperation (Machine.cmdOperation_cmdByte op dk), Machine.cmdDk_cmdByte]

/-! ### Access words -/

@[simp] theorem decodeBus_wr (a : Addr) (v : Byte) : decodeBus (wr a v) = decodeWrite a v := by
  simp [decodeBus]

@[simp] theorem decodeBus_rdWith (a : Addr) (d : Byte) : decodeBus (rdWith a d) = decodeRead a d := by
  simp [decodeBus]

@[simp] theorem decodeWrite_keyAddr (i v : Byte) : decodeWrite (keyAddr i) v = .ok (.keyw i v) := by
  simp [decodeWrite]

@[simp] theorem decodeRead_keyAddr (i d : Byte) : decodeRead (keyAddr i) d = .ok (.keyr i d) := by
  simp [decodeRead]

theorem wr_fields {w : BusWord} (hw : busW w = true) : wr (busA w) (busD w) = w :=
  busWord_ext (by simp [hw]) (by simp) (by simp)

theorem rdWith_fields {w : BusWord} (hw : busW w = false) : rdWith (busA w) (busD w) = w :=
  busWord_ext (by simp [hw]) (by simp) (by simp)

/-- An address with bit 8 set is the one of the key byte its bits 7:0 index (R43). -/
theorem keyAddr_keyIndex {a : Addr} (h : a.getLsbD 8 = true) : keyAddr (keyIndex a) = a := by
  apply BitVec.eq_of_getLsbD_eq
  intro k hk
  rw [getLsbD_keyAddr]
  by_cases h8 : k < 8
  · simp [keyIndex, h8]
  · obtain rfl : k = 8 := by omega
    simpa using h.symm

theorem encode_of_decodeWrite {a : Addr} {v : Byte} {i : Instr} (h : decodeWrite a v = .ok i) :
    encode i = .bus (wr a v) := by
  unfold decodeWrite at h
  split_ifs at h with hkey h0 h1 h2 h3 h5
  · cases h
    rw [encode, keyAddr_keyIndex hkey]
  all_goals
    cases h
    subst a
    rfl

theorem encode_of_decodeRead {a : Addr} {d : Byte} {i : Instr} (h : decodeRead a d = .ok i) :
    encode i = .bus (rdWith a d) := by
  unfold decodeRead at h
  split_ifs at h with hkey h0 h1 h2 h4
  · cases h
    rw [encode, keyAddr_keyIndex hkey]
  all_goals
    cases h
    subst a
    rfl

/-! ### Both formats -/

/-- Settles O1, by the row of the instruction: the five commands through their byte, the key store through its address,
the registers by evaluating the decoder at their address. -/
theorem decodeOfEncodeIsSame : Obligations.DecodeOfEncodeIsSame := by
  unfold Obligations.DecodeOfEncodeIsSame
  intro i
  cases i with
  | b64e dk | b64d dk | xort dk | aenc dk | adec dk => exact decodeCmd_cmdByte _ dk
  | cmdw | stclr | klenw | push | fin => exact decodeBus_wr _ _
  | ctrlr | statr | klenr | pop => exact decodeBus_rdWith _ _
  | keyr i d => exact (decodeBus_rdWith _ _).trans (decodeRead_keyAddr i d)
  | keyw i v => exact (decodeBus_wr _ _).trans (decodeWrite_keyAddr i v)

/-- Settles O2: a command byte and an access word are both given by the fields the decoder reads. -/
theorem encodeOfDecodeIsSame : Obligations.EncodeOfDecodeIsSame := by
  unfold Obligations.EncodeOfDecodeIsSame
  intro e i h
  cases e with
  | cmd c =>
    rcases decodeCmd_cases c with ⟨op, hop, hdec⟩ | ⟨_, hdec⟩
    · obtain rfl : startInstr op (cmdDk c) = i := Except.ok.inj (hdec.symm.trans h)
      rw [encode_startInstr, (cmdOperation_eq_some_iff c op).mp hop]
    · cases hdec.symm.trans h
  | bus w =>
    change decodeBus w = .ok i at h
    unfold decodeBus at h
    split at h
    · next hw => rw [encode_of_decodeWrite h, wr_fields hw]
    · next hw => rw [encode_of_decodeRead h, rdWith_fields (by simpa using hw)]

/-! ### The rows of the table (R102) -/

/-- Every instruction's word matches the instruction's row: the laws of the table row by row, put together. -/
theorem rowOf_matches_encode (i : Instr) : (rowOf i).matches (encode i) = true := by
  cases i
  case b64e dk => exact Laws.TableRow.b64e dk
  case b64d dk => exact Laws.TableRow.b64d dk
  case xort dk => exact Laws.TableRow.xort dk
  case aenc dk => exact Laws.TableRow.aenc dk
  case adec dk => exact Laws.TableRow.adec dk
  case cmdw c => exact Laws.TableRow.cmdw c
  case ctrlr d => exact Laws.TableRow.ctrlr d
  case statr d => exact Laws.TableRow.statr d
  case stclr m => exact Laws.TableRow.stclr m
  case klenr d => exact Laws.TableRow.klenr d
  case klenw n => exact Laws.TableRow.klenw n
  case push v => exact Laws.TableRow.push v
  case pop d => exact Laws.TableRow.pop d
  case fin x => exact Laws.TableRow.fin x
  case keyr i d => exact Laws.TableRow.keyr i d
  case keyw i v => exact Laws.TableRow.keyw i v

/-- The mask of the `CMD` rows leaves `DK` free and nothing else. -/
theorem decodeCmd_of_mask {c p : Byte} {op : Op} (h : c &&& 0xF7#8 = p) (hp : cmdOperation p = some op) :
    decodeCmd c = .ok (startInstr op (cmdDk c)) := by
  have hzero : cmdZero p = cmdZero c := by
    rw [← h]
    apply BitVec.eq_of_getLsbD_eq
    intro i hi
    interval_cases i <;> simp [cmdZero]
  have hop : cmdOp p = cmdOp c := by
    rw [← h]
    apply BitVec.eq_of_getLsbD_eq
    intro i hi
    interval_cases i <;> simp [cmdOp]
  rw [cmdOperation, hzero, hop, ← cmdOperation] at hp
  exact decodeCmd_of_cmdOperation hp

/-- The mask of a register's row fixes direction and address, and leaves D free. -/
theorem decodeBus_of_registerMask {w p : BusWord} (h : w &&& 0x3FF00#18 = p) :
    decodeBus w = if busW p then decodeWrite (busA p) (busD w) else decodeRead (busA p) (busD w) := by
  have hW : busW p = busW w := by
    rw [← h]
    simp [busW]
  have hA : busA p = busA w := by
    rw [← h]
    apply BitVec.eq_of_getLsbD_eq
    intro i hi
    interval_cases i <;> simp [busA]
  rw [hW, hA, decodeBus]

/-- The mask of the two key-store rows fixes direction and address bit 8, and leaves index and D free. -/
theorem decodeBus_of_keyMask {w p : BusWord} (h : w &&& 0x30000#18 = p) (hp : p.getLsbD 16 = true) :
    decodeBus w = .ok (if busW p then .keyw (keyIndex (busA w)) (busD w) else .keyr (keyIndex (busA w)) (busD w)) := by
  have hW : busW p = busW w := by
    rw [← h]
    simp [busW]
  have hkey : (busA w).getLsbD 8 = true := by
    rw [← h] at hp
    simpa [busA] using hp
  rw [hW, decodeBus, decodeWrite, decodeRead, if_pos hkey, if_pos hkey]
  split <;> rfl

/-- The converse of the row laws: a word that matches an instruction's row decodes to an instruction of that row. -/
theorem decode_of_matches {e : Encoded} {i : Instr} (h : (rowOf i).matches e = true) :
    ∃ j, decode e = .ok j ∧ rowOf j = rowOf i := by
  cases e with
  | cmd c =>
    cases i with
    | b64e | b64d | xort | aenc | adec => exact ⟨_, decodeCmd_of_mask (eq_of_beq h) rfl, rfl⟩
    | _ => cases h
  | bus w =>
    cases i with
    | b64e | b64d | xort | aenc | adec => cases h
    | keyr | keyw => exact ⟨_, decodeBus_of_keyMask (eq_of_beq h) rfl, rfl⟩
    | _ => exact ⟨_, decodeBus_of_registerMask (eq_of_beq h), rfl⟩

/-- Settles O3: a word matches exactly the row of what it decodes to, so it matches at most one. -/
theorem decoderFollowsTheDisjointRows : Obligations.DecoderFollowsTheDisjointRows := by
  unfold Obligations.DecoderFollowsTheDisjointRows
  refine ⟨fun e i h => ?_, fun e r h i => ?_, fun e i j hi hj => ?_⟩
  · rw [← encodeOfDecodeIsSame e i h]
    exact rowOf_matches_encode i
  · by_contra hmatch
    obtain ⟨j, hdec, _⟩ := decode_of_matches (eq_true_of_ne_false hmatch)
    cases h.symm.trans hdec
  · obtain ⟨i', hdec, hi'⟩ := decode_of_matches hi
    obtain ⟨j', hdec', hj'⟩ := decode_of_matches hj
    obtain rfl : i' = j' := Except.ok.inj (hdec.symm.trans hdec')
    exact hi'.symm.trans hj'

end Sys2Proof
end

section
/-! What a decoded word does (30_encoding.md R99, R102; 43_composition_controller.md R178): reserved command bytes, the
two stages of decoding, and the step on an instruction's own word. -/

namespace Sys2Proof.Machine

/-! ### Reserved command bytes (R99) -/

theorem opOfCode_eq_none_iff (o : BitVec 3) : opOfCode o = none ↔ o = 0#3 ∨ o = 6#3 ∨ o = 7#3 := by
  revert o
  decide

theorem decodeCmd_eq_error_iff (c : Byte) : decodeCmd c = .error .reservedCommand ↔ cmdOperation c = none := by
  rcases decodeCmd_cases c with ⟨op, hop, hdec⟩ | ⟨hnone, hdec⟩
  · simp [hop, hdec]
  · simp [hnone, hdec]

theorem cmdOperation_eq_none_iff (c : Byte) :
    cmdOperation c = none ↔ cmdZero c ≠ 0#4 ∨ cmdOp c = 0#3 ∨ cmdOp c = 6#3 ∨ cmdOp c = 7#3 := by
  unfold cmdOperation
  split
  · next hzero => simp [hzero, opOfCode_eq_none_iff]
  · next hzero => simp [hzero]

theorem cmdZero_ne_zero_iff (c : Byte) : cmdZero c ≠ 0#4 ↔ 16 ≤ c.toNat := by
  have hc := c.isLt
  rw [ne_eq, ← BitVec.toNat_inj, cmdZero, BitVec.extractLsb'_toNat, Nat.shiftRight_eq_div_pow]
  simp only [BitVec.toNat_ofNat]
  omega

theorem toNat_cmdOp (c : Byte) : (cmdOp c).toNat = c.toNat % 8 := by
  rw [cmdOp, BitVec.extractLsb'_toNat, Nat.shiftRight_zero]

/-- The fields of R99 as ranges: five legal bytes with `DK` clear and five with `DK` set. -/
theorem reserved_fields_iff_ranges (c : Byte) :
    (cmdZero c ≠ 0#4 ∨ cmdOp c = 0#3 ∨ cmdOp c = 6#3 ∨ cmdOp c = 7#3) ↔
      ¬ (0x01#8 ≤ c ∧ c ≤ 0x05#8) ∧ ¬ (0x09#8 ≤ c ∧ c ≤ 0x0D#8) := by
  rw [cmdZero_ne_zero_iff]
  simp only [← BitVec.toNat_inj, toNat_cmdOp, BitVec.le_def, BitVec.toNat_ofNat]
  omega

theorem commandWrite_of_reserved {c : Byte} {s : State} (hc : cmdOperation c = none) (hidle : s.phase = .idle) :
    commandWrite c s = raiseProtocolError .p2 s := by
  simp [commandWrite, (busy_eq_false s).mpr hidle, hc]

/-- Settles O5: the two fields of the byte, the same as ranges, and the second test of the `CTRL` write. -/
theorem reservedCommandsStartNothing : Obligations.ReservedCommandsStartNothing := by
  unfold Obligations.ReservedCommandsStartNothing
  have hfields (c : Byte) := (decodeCmd_eq_error_iff c).trans (cmdOperation_eq_none_iff c)
  refine ⟨hfields, fun c => (hfields c).trans (reserved_fields_iff_ranges c), fun c s hdec hidle => ?_⟩
  rw [exec_cmdw, commandWrite_of_reserved ((decodeCmd_eq_error_iff c).mp hdec) hidle]
  rfl

/-! ### The two stages (R102) -/

theorem exec_startInstr (op : Op) (dk : Bool) (s : State) :
    exec (startInstr op dk) s = .next (startCommand op dk s) := by
  cases op
  all_goals rfl

/-- The `CTRL` write of a legal byte makes the tests of `START` (R178). -/
theorem commandWrite_of_cmdOperation {c : Byte} {op : Op} (h : cmdOperation c = some op) (s : State) :
    commandWrite c s = startCommand op (cmdDk c) s := by
  rw [commandWrite, h]
  rfl

/-- Settles O24: both run `START` of the byte's operation. -/
theorem ctrlWriteDoesWhatItsCommandDoes : Obligations.CtrlWriteDoesWhatItsCommandDoes := by
  unfold Obligations.CtrlWriteDoesWhatItsCommandDoes
  intro c i s h
  rcases decodeCmd_cases c with ⟨op, hop, hdec⟩ | ⟨_, hdec⟩
  · obtain rfl : startInstr op (cmdDk c) = i := Except.ok.inj (hdec.symm.trans h)
    rw [exec_cmdw, commandWrite_of_cmdOperation hop, exec_startInstr]
  · cases hdec.symm.trans h

/-- Settles O6: where the first stage answers `CMDW` the second decides, and elsewhere there is no second. -/
theorem ctrlWriteDecodesInTwoStages : Obligations.CtrlWriteDecodesInTwoStages := by
  unfold Obligations.CtrlWriteDecodesInTwoStages
  refine ⟨fun w c i hbus hcmd => ?_, fun w c r hbus hcmd => ?_, fun w hbus => ?_⟩
  · simp only [decodeAccess, hbus, hcmd]
  · simp only [decodeAccess, hbus, hcmd]
  · rcases decodeAccess_cases w with ⟨heq, _⟩ | ⟨op, hctrl, _⟩
    · exact heq
    · exact absurd hctrl (hbus _)

/-- The second stage changes how a word is named, not what it does. -/
theorem exec_of_decodeBus {w : BusWord} {i : Instr} (h : decodeBus w = .ok i) :
    ∃ j, decodeAccess w = .ok j ∧ ∀ s, exec j s = exec i s := by
  rcases decodeAccess_cases w with ⟨heq, _⟩ | ⟨op, hctrl, hop, heq⟩
  · exact ⟨i, heq.trans h, fun _ => rfl⟩
  · obtain rfl : .cmdw (busD w) = i := Except.ok.inj (hctrl.symm.trans h)
    exact ⟨_, heq, fun s => (ctrlWriteDoesWhatItsCommandDoes _ _ s (decodeCmd_of_cmdOperation hop)).symm⟩

/-! ### An instruction's own word (R103) -/

/-- As a word of the host an instruction decodes to itself, and a command to the `CTRL` write of its byte. -/
theorem decodeBus_accessWord (i : Instr) :
    ∃ j, decodeBus (accessWord (encode i)) = .ok j ∧ ∀ s, exec j s = exec i s := by
  have hdec := decodeOfEncodeIsSame i
  cases hword : encode i with
  | cmd c =>
    rw [hword] at hdec
    exact ⟨.cmdw c, decodeBus_wr 0x000#9 c, fun s => ctrlWriteDoesWhatItsCommandDoes c i s hdec⟩
  | bus w =>
    rw [hword] at hdec
    exact ⟨i, hdec, fun _ => rfl⟩

theorem step_of_accessWord {s : State} {rest : List HostEvent} {i : Instr}
    (hhost : s.host = .access (accessWord (encode i)) :: rest) : step s = exec i (beginAccess rest s) := by
  obtain ⟨j, hbus, hj⟩ := decodeBus_accessWord i
  obtain ⟨k, hdec, hk⟩ := exec_of_decodeBus hbus
  rw [step_of_decodeAccess_ok hhost hdec, hk, hj]

/-- Settles O8: the word decodes at the first stage to what does as `i` does, and the second stage keeps that. -/
theorem stepRunsTheEncodedInstruction : Obligations.StepRunsTheEncodedInstruction := by
  unfold Obligations.StepRunsTheEncodedInstruction
  intro s rest i hhost
  rw [step_of_accessWord hhost, beginAccess_eq]

/-- Settles O4, by evaluating the decoder at each of the words. -/
theorem exampleWordsDecode : Obligations.ExampleWordsDecode := by
  unfold Obligations.ExampleWordsDecode
  exact ⟨rfl, rfl, rfl, rfl, rfl, rfl, rfl, rfl, rfl, rfl, rfl⟩

end Sys2Proof.Machine
end

section
/-! The Base64 alphabet and its classifier (30_encoding.md R95, R96, R98). -/

namespace Sys2Proof.Machine

/-- The alphabet as numbers, by the five ranges of R95. -/
theorem toNat_alpha (i : BitVec 6) :
    (alpha i).toNat = if i.toNat ≤ 25 then 65 + i.toNat else if i.toNat ≤ 51 then 71 + i.toNat
      else if i.toNat ≤ 61 then i.toNat - 4 else if i.toNat = 62 then 43 else 47 := by
  revert i
  decide

theorem cls_alpha (i : BitVec 6) : cls (alpha i) = .sym i := by
  revert i
  decide

/-- Each range of characters in R96 is the image of its range of indices in R95. -/
theorem alpha_of_cls_sym {c : Byte} {v : BitVec 6} (h : cls c = .sym v) : alpha v = c := by
  apply BitVec.eq_of_toNat_eq
  rw [toNat_alpha]
  unfold cls at h
  split_ifs at h with hplus hslash hdigit hpad hupper hlower
  · cases h
    simp [hplus]
  · cases h
    simp [hslash]
  all_goals
    cases h
    simp only [BitVec.le_def, BitVec.toNat_ofNat, BitVec.toNat_setWidth, BitVec.toNat_add, BitVec.toNat_sub] at *
    split_ifs
    all_goals omega

/-- Settles O44: `cls` inverts `alpha` on its 64 indices, so `alpha` is injective and never `=`. -/
theorem classifierInvertsTheAlphabet : Obligations.ClassifierInvertsTheAlphabet := by
  unfold Obligations.ClassifierInvertsTheAlphabet
  refine ⟨fun i j hij => ?_, cls_alpha, fun c v => alpha_of_cls_sym, fun i hpad => ?_⟩
  · have hsym : CharClass.sym i = .sym j := by rw [← cls_alpha i, ← cls_alpha j, hij]
    exact CharClass.sym.inj hsym
  · have hcls := cls_alpha i
    rw [hpad] at hcls
    cases hcls

end Sys2Proof.Machine
end

section
/-! The closed form of the decoder function (30_encoding.md R101): its loop reads off a stream of bits, most significant
first. -/

namespace Sys2Proof.Machine

/-- Bit `i` of what the loop of R140 has before it: the `n` live bits of `acc`, then the bits of the symbols to come. -/
def streamBit (acc n : Nat) (vs : List (BitVec 6)) (i : Nat) : Bool :=
  if i < n then acc.testBit (n - 1 - i) else (vs.getD ((i - n) / 6) 0#6).getMsbD ((i - n) % 6)

/-- With nothing held the stream is the concatenation of the symbols. -/
theorem streamBit_zero (vs : List (BitVec 6)) (i : Nat) :
    streamBit 0 0 vs i = (vs.getD (i / 6) 0#6).getMsbD (i % 6) := by
  simp [streamBit]

/-- The bits of the rolling buffer after a symbol of value `v`. -/
theorem testBit_buffer (acc : Nat) (v : BitVec 6) (i : Nat) :
    (acc * 2 ^ 6 + v.toNat).testBit i = if i < 6 then v.getLsbD i else acc.testBit (i - 6) := by
  rw [Nat.mul_comm, Nat.testBit_two_pow_mul_add _ v.isLt]
  rfl

/-- Taking a symbol into the buffer does not change the stream. -/
theorem streamBit_symbol (acc n : Nat) (v : BitVec 6) (vs : List (BitVec 6)) (i : Nat) :
    streamBit (acc * 2 ^ 6 + v.toNat) (n + 6) vs i = streamBit acc n (v :: vs) i := by
  unfold streamBit
  rw [testBit_buffer]
  by_cases hheld : i < n
  · have hlt : i < n + 6 := by omega
    have hhigh : ¬ n + 6 - 1 - i < 6 := by omega
    have hpos : n + 6 - 1 - i - 6 = n - 1 - i := by omega
    rw [if_pos hlt, if_neg hhigh, if_pos hheld, hpos]
  · rw [if_neg hheld]
    by_cases hsym : i < n + 6
    · have hlow : n + 6 - 1 - i < 6 := by omega
      have hdiv : (i - n) / 6 = 0 := by omega
      have hmod : (i - n) % 6 = i - n := by omega
      have hlt : i - n < 6 := by omega
      have hpos : n + 6 - 1 - i = 6 - 1 - (i - n) := by omega
      rw [if_pos hsym, if_pos hlow, hdiv, hmod, List.getD_cons_zero, BitVec.getMsbD_eq_getLsbD, hpos]
      simp [hlt]
    · have hdiv : (i - n) / 6 = (i - (n + 6)) / 6 + 1 := by omega
      have hmod : (i - n) % 6 = (i - (n + 6)) % 6 := by omega
      rw [if_neg hsym, hdiv, hmod, List.getD_cons_succ]

/-- Dropping the top eight live bits of the buffer moves the stream on by eight. -/
theorem streamBit_drop (acc m : Nat) (vs : List (BitVec 6)) (i : Nat) :
    streamBit (acc % 2 ^ m) m vs i = streamBit acc (m + 8) vs (i + 8) := by
  unfold streamBit
  rw [Nat.testBit_mod_two_pow]
  by_cases hi : i < m
  · have hpos : m + 8 - 1 - (i + 8) = m - 1 - i := by omega
    have hlt : m - 1 - i < m := by omega
    rw [if_pos hi, if_pos (by omega), hpos, decide_eq_true hlt, Bool.true_and]
  · have hpos : i + 8 - (m + 8) = i - m := by omega
    simp [hi, hpos]

/-- The byte the loop returns is the next eight bits of the stream. -/
theorem getMsbD_nextByte (acc m : Nat) (vs : List (BitVec 6)) {k : Nat} (hk : k < 8) :
    (BitVec.ofNat 8 (acc / 2 ^ m)).getMsbD k = streamBit acc (m + 8) vs k := by
  have hpos : m + 8 - 1 - k = 7 - k + m := by omega
  rw [streamBit, if_pos (by omega), hpos, ← Nat.testBit_div_two_pow, BitVec.getMsbD_eq_getLsbD, BitVec.getLsbD_ofNat]
  simp [hk]
  omega

/-- What is left to return when the loop holds `n` bits of `acc`: one byte for every whole eight bits of the stream. -/
theorem b64decFrom_bits (t : List Byte) (acc n : Nat) (hn : n < 8) :
    (b64decFrom acc n t).length = (n + 6 * (symbols t).length) / 8 ∧
    ∀ j k : Nat, 8 * j + 8 ≤ n + 6 * (symbols t).length → k < 8 →
      ((b64decFrom acc n t).getD j 0x00#8).getMsbD k = streamBit acc n (symbols t) (8 * j + k) := by
  induction t generalizing acc n with
  | nil =>
    simp only [b64decFrom, symbols, List.length_nil]
    exact ⟨by omega, fun j k hj => by omega⟩
  | cons c t ih =>
    rw [b64decFrom, symbols]
    cases cls c with
    | pad =>
      simp only [List.length_nil]
      exact ⟨by omega, fun j k hj => by omega⟩
    | skip => exact ih acc n hn
    | sym v =>
      simp only [List.length_cons]
      by_cases hfull : 8 ≤ n + 6
      · obtain ⟨m, rfl⟩ : ∃ m, n = m + 2 := ⟨n - 2, by omega⟩
        have hm : m + 2 + 6 - 8 = m := by omega
        obtain ⟨hlen, hbits⟩ := ih ((acc * 2 ^ 6 + v.toNat) % 2 ^ m) m (by omega)
        rw [if_pos hfull, hm]
        refine ⟨by rw [List.length_cons, hlen]; omega, fun j k hj hk => ?_⟩
        rw [← streamBit_symbol]
        cases j with
        | zero =>
          rw [List.getD_cons_zero, getMsbD_nextByte _ m (symbols t) hk, Nat.mul_zero, Nat.zero_add]
        | succ j =>
          have hpos : 8 * (j + 1) + k = 8 * j + k + 8 := by omega
          rw [List.getD_cons_succ, hbits j k (by omega) hk, streamBit_drop, hpos]
      · obtain ⟨hlen, hbits⟩ := ih (acc * 2 ^ 6 + v.toNat) (n + 6) (by omega)
        rw [if_neg hfull]
        refine ⟨by rw [hlen]; omega, fun j k hj hk => ?_⟩
        rw [hbits j k (by omega) hk, streamBit_symbol]

/-- Settles O48: the loop from an empty buffer. -/
theorem decodedBitsAreTheSymbolBits : Obligations.DecodedBitsAreTheSymbolBits := by
  unfold Obligations.DecodedBitsAreTheSymbolBits
  intro t
  obtain ⟨hlen, hbits⟩ := b64decFrom_bits t 0 0 (by omega)
  rw [Nat.zero_add] at hlen hbits
  exact ⟨hlen, fun j k hj hk => by rw [b64dec, hbits j k hj hk, streamBit_zero]⟩

end Sys2Proof.Machine
end

section
/-! The accesses of the pseudo-instructions (30_encoding.md R103), each as the operation it is, and `LDKEY`. -/

namespace Sys2Proof.Machine

/-! ### An access of the host's, by its instruction -/

/-- Issuing an instruction's own word runs the instruction on the state in which the access has begun. -/
theorem issue_of_exec {i : Instr} {s t : State} (h : exec i (beginAccess [] s) = .next t) :
    issue (accessWord (encode i)) s = t := by
  have hstep : step { s with host := [.access (accessWord (encode i))] } = exec i (beginAccess [] s) :=
    step_of_accessWord rfl
  exact Host.Outcome.next.inj ((step_eq_issue _ s).symm.trans (hstep.trans h))

theorem issue_startWord (op : Op) (dk : Bool) (s : State) :
    issue (startWord op dk) s = startCommand op dk (beginAccess [] s) := by
  have hword : accessWord (encode (startInstr op dk)) = startWord op dk := by rw [encode_startInstr]; rfl
  rw [← hword]
  exact issue_of_exec (exec_startInstr op dk _)

theorem issue_statWord (s : State) :
    issue statWord s = respond (statusByte (beginAccess [] s)) (beginAccess [] s) :=
  issue_of_exec (i := .statr 0x00#8) rfl

theorem issue_pushWord (v : Byte) (s : State) : issue (pushWord v) s = dinWrite v (beginAccess [] s) :=
  issue_of_exec (i := .push v) rfl

theorem issue_finWord (s : State) : issue finWord s = finWrite 0x00#8 (beginAccess [] s) :=
  issue_of_exec (i := .fin 0x00#8) rfl

theorem issue_popWord (s : State) : issue popWord s = doutRead (beginAccess [] s) :=
  issue_of_exec (i := .pop 0x00#8) rfl

/-- In `IDLE` the write of a key byte is taken (R43). -/
theorem issue_keyWord {s : State} (hidle : s.phase = .idle) (i v : Byte) :
    issue (wr (keyAddr i) v) s = writeKey i v (beginAccess [] s) :=
  have hidle' : (beginAccess [] s).phase = .idle := hidle
  issue_of_exec (i := .keyw i v) (by rw [exec_keyw, idleWrite_of_idle hidle'])

/-- In `IDLE` the write of the key's length is taken (R39). -/
theorem issue_klenWord {s : State} (hidle : s.phase = .idle) (n : Byte) :
    issue (wr 0x002#9 n) s = { beginAccess [] s with klen := n } :=
  have hidle' : (beginAccess [] s).phase = .idle := hidle
  issue_of_exec (i := .klenw n) (by rw [exec_klenw, idleWrite_of_idle hidle'])

theorem issueAll_append (ws ws' : List BusWord) (s : State) :
    issueAll (ws ++ ws') s = issueAll ws' (issueAll ws s) := by
  induction ws generalizing s with
  | nil => rfl
  | cons w ws ih => exact ih (issue w s)

theorem issue_inv {s : State} (h : Inv s) (w : BusWord) : Inv (issue w s) :=
  stepKeepsTheInvariant { s with host := [.access w] } _ h (step_eq_issue w s)

theorem issueAll_inv {s : State} (h : Inv s) (ws : List BusWord) : Inv (issueAll ws s) := by
  induction ws generalizing s with
  | nil => exact h
  | cons w ws ih => exact ih (issue_inv h w)

/-! ### `LDKEY` -/

/-- What writing key bytes in `IDLE` leaves as it was: `STATE` and the two flags, so no byte is refused. -/
theorem issueAll_keyWords_frame (bs : List Byte) (i : Nat) {s : State} (hidle : s.phase = .idle) :
    (issueAll (keyWords i bs) s).phase = .idle ∧ (issueAll (keyWords i bs) s).perr = s.perr ∧
    (issueAll (keyWords i bs) s).ia = s.ia := by
  induction bs generalizing i s with
  | nil => exact ⟨hidle, rfl, rfl⟩
  | cons b bs ih =>
    rw [keyWords, issueAll, issue_keyWord hidle]
    exact ih (i + 1) hidle

/-- The key store after key bytes written in `IDLE` from index `i` on. -/
theorem read_issueAll_keyWords (bs : List Byte) (i j : Nat) {s : State} (hidle : s.phase = .idle)
    (hfit : i + bs.length ≤ 256) :
    Memory.read (issueAll (keyWords i bs) s).key j =
      if i ≤ j ∧ j < i + bs.length then bs.getD (j - i) 0x00#8 else Memory.read s.key j := by
  induction bs generalizing i s with
  | nil =>
    have hnone : ¬ (i ≤ j ∧ j < i + ([] : List Byte).length) := by simp
    rw [if_neg hnone]
    rfl
  | cons b bs ih =>
    rw [List.length_cons] at hfit ⊢
    have hi : (BitVec.ofNat 8 i).toNat = i := by
      rw [BitVec.toNat_ofNat]
      omega
    have hnext : (writeKey (BitVec.ofNat 8 i) b (beginAccess [] s)).phase = .idle := hidle
    rw [keyWords, issueAll, issue_keyWord hidle, ih (i + 1) hnext (by omega), writeKey_key, Memory.read_write, hi,
      beginAccess_key]
    by_cases hji : j = i
    · subst hji
      simp
    · by_cases hlater : i + 1 ≤ j ∧ j < i + 1 + bs.length
      · obtain ⟨m, rfl⟩ : ∃ m, j = i + 1 + m := ⟨j - (i + 1), by omega⟩
        have hpos : i + 1 + m - i = m + 1 := by omega
        have hpos' : i + 1 + m - (i + 1) = m := by omega
        rw [if_pos hlater, if_pos (by omega), hpos, hpos', List.getD_cons_succ]
      · rw [if_neg hlater, if_neg hji, if_neg (by omega)]

/-- `LDKEY` is the key bytes and then the length; all of it is taken in `IDLE`. -/
theorem issueAll_ldkeyWords (k : List Byte) {s : State} (hidle : s.phase = .idle) :
    issueAll (ldkeyWords k) s =
      { beginAccess [] (issueAll (keyWords 0 k) s) with klen := BitVec.ofNat 8 k.length } := by
  obtain ⟨hphase, _⟩ := issueAll_keyWords_frame k 0 hidle
  rw [ldkeyWords, issueAll_append]
  exact issue_klenWord hphase _

/-- Reading as many key bytes as a sequence has, each of them that sequence's, gives the sequence. -/
theorem map_read_eq {m : Memory} {k : List Byte} (h : ∀ j < k.length, Memory.read m j = k.getD j 0x00#8) :
    (List.range k.length).map (Memory.read m) = k := by
  apply List.ext_getElem
  · simp
  · intro j _ hj
    simp [h j hj, hj]

theorem toNat_ldkeyWords_klen {k : List Byte} {s : State} (hidle : s.phase = .idle) (hk : k.length ≤ 255) :
    (issueAll (ldkeyWords k) s).klen.toNat = k.length := by
  rw [issueAll_ldkeyWords k hidle]
  exact Nat.mod_eq_of_lt (by omega)

/-- Settles O59: the bytes written are read back below the length, and no other field the statement names is touched. -/
theorem loadKeyMakesTheEffectiveKey : Obligations.LoadKeyMakesTheEffectiveKey := by
  unfold Obligations.LoadKeyMakesTheEffectiveKey
  intro k s hidle hk
  obtain ⟨hphase, hperr, hia⟩ := issueAll_keyWords_frame k 0 hidle
  have hread (j : Nat) := read_issueAll_keyWords k 0 j hidle (by omega)
  have hlen := toNat_ldkeyWords_klen hidle hk
  rw [issueAll_ldkeyWords k hidle] at hlen ⊢
  refine ⟨?_, hphase, hperr, hia, fun i hi => ?_⟩
  · rw [effectiveKey, hlen]
    refine map_read_eq fun j hj => ?_
    rw [beginAccess_key, hread, if_pos (by omega), Nat.sub_zero]
  · show Memory.read (issueAll (keyWords 0 k) s).key i.toNat = Memory.read s.key i.toNat
    rw [hread, if_neg (by omega)]

end Sys2Proof.Machine
end

section
/-! The two levels agree, item by item (43_composition_controller.md R195): what a running command still owes for the
input to come is its function, from the registers of the sub-units on. An item moves bytes from what is owed into the
queue, and reading the queue does not touch what is owed. -/

namespace Sys2Proof.Machine

/-! ### The encoder (R120, R124, R126) -/

/-- The bytes of the incomplete group (R28). -/
def heldBytes (s : State) : List Byte :=
  if s.ecnt = 0#2 then [] else if s.ecnt = 1#2 then [ebufHi s] else [ebufHi s, ebufLo s]

/-- A byte either joins the incomplete group or completes it, and then its four characters leave. -/
theorem encStep_conserves (x : Byte) (bs : List Byte) (s : State) :
    (encStep x s).oq ++ b64enc (heldBytes (encStep x s) ++ bs) = s.oq ++ b64enc (heldBytes s ++ x :: bs) := by
  rcases encStep_cases x s with ⟨h0, hstep⟩ | ⟨h1, hstep⟩ | ⟨h0, h1, hstep⟩
  · rw [hstep]
    simp [heldBytes, h0, ebufHi, ebufHi_pair]
  · rw [hstep]
    simp [heldBytes, h1, ebufHi, ebufHi_pair, ebufLo, ebufLo_pair]
  · rw [hstep]
    simp [heldBytes, h0, h1, b64enc, encFull, ebuf_halves]

/-- The flush emits the padded group of what is held. -/
theorem encFlush_conserves {s : State} (h : EncoderCountLegal s) :
    (encFlush s).oq = s.oq ++ b64enc (heldBytes s) := by
  rcases encFlush_cases s with ⟨h1, hflush⟩ | ⟨h2, hflush⟩ | ⟨h1, h2, hflush⟩
  · rw [hflush]
    simp [heldBytes, h1, b64enc]
  · rw [hflush]
    simp [heldBytes, h2, b64enc]
  · have h0 : s.ecnt = 0#2 := by simpa [EncoderCountLegal, h1, h2] using h
    rw [hflush]
    simp [heldBytes, h0, b64enc]

/-! ### The decoder (R140, R146) -/

/-- What the decoder makes of the characters to come: the loop of R140 from `DACC` and `DNB` on, and nothing
once it has stopped. -/
def decodedFrom (s : State) (t : List Byte) : List Byte :=
  if s.dstop then [] else b64decFrom s.dacc.toNat s.dnb.toNat t

/-- A symbol's byte is the top of the rolling buffer of R140, and `DACC` and `DNB` are the rest of it. -/
theorem decSymbol_conserves {s : State} (h : ResidueLegal s) (hstop : s.dstop = false) {c : Byte} {v : BitVec 6}
    (hc : cls c = .sym v) (t : List Byte) :
    decodedFrom s (c :: t) = (decSymbol v s).1.toList ++ decodedFrom (decSymbol v s).2 t := by
  obtain ⟨hdnb, hdacc⟩ := h
  have hlt := s.dnb.isLt
  rcases decSymbol_cases v s with ⟨hheld, hstep⟩ | ⟨hnone, hstep⟩
  · have hfull : 8 ≤ s.dnb.toNat + 6 := by omega
    have hrest : s.dnb.toNat + 6 - 8 = s.dnb.toNat - 2 := by omega
    have hdnb' : (BitVec.ofNat 3 (s.dnb.toNat - 2)).toNat = s.dnb.toNat - 2 := by
      rw [BitVec.toNat_ofNat]
      omega
    rw [hstep]
    simp only [decodedFrom, hstop, b64decFrom, hc, hfull, if_true, Bool.false_eq_true, if_false, Option.toList_some,
      List.singleton_append, hdnb', toNat_lowBits _ _ (show s.dnb.toNat - 2 ≤ 6 by omega), ← toNat_temporary,
      topByte, hrest, BitVec.extractLsb', Nat.shiftRight_eq_div_pow]
  · have h0 : s.dnb.toNat = 0 := by
      rcases hdnb with hn | hn | hn | hn <;> simp [hn] at hnone ⊢
    have hempty : s.dacc.toNat = 0 := by
      rw [h0] at hdacc
      omega
    rw [hstep]
    simp [decodedFrom, hstop, b64decFrom, hc, h0, hempty]

/-- A character gives its byte, if any, and leaves the rest to the characters after it. -/
theorem decStep_conserves {s : State} (h : ResidueLegal s) (c : Byte) (t : List Byte) :
    decodedFrom s (c :: t) = (decStep c s).1.toList ++ decodedFrom (decStep c s).2 t := by
  cases hstop : s.dstop with
  | true => simp [decodedFrom, decStep, hstop]
  | false =>
    rcases decStep_cases c s with ⟨hskip, hstep⟩ | ⟨_, hc, hstep⟩ | ⟨v, _, hc, hstep⟩
    · have hc : cls c = .skip := by simpa [hstop] using hskip
      rw [hstep]
      simp [decodedFrom, hstop, b64decFrom, hc]
    · rw [hstep]
      simp [decodedFrom, hstop, b64decFrom, hc]
    · rw [hstep]
      exact decSymbol_conserves h hstop hc t

/-! ### The cipher (R160, R165) -/

/-- What the cipher makes of the bytes to come: the loop of R160 under the effective key, from `KIDX` on. -/
def cipheredFrom (s : State) (bs : List Byte) : List Byte := xortFrom (effectiveKey s.dkr s) s.kidx.toNat bs

theorem length_effectiveKey (dk : Bool) (s : State) : (effectiveKey dk s).length = eklen dk s := by
  cases dk
  all_goals simp [effectiveKey, eklen, defaultKey]

/-- Below the key's length, the byte the cipher reads is that byte of the effective key (R164). -/
theorem ek_eq_getD (dk : Bool) {i : Byte} {s : State} (h : i.toNat < eklen dk s) :
    ek dk i s = (effectiveKey dk s).getD i.toNat 0x00#8 := by
  cases dk with
  | true =>
    obtain hi | hi | hi : i = 0#8 ∨ i = 1#8 ∨ i = 2#8 := by
      simp only [← BitVec.toNat_inj, BitVec.toNat_ofNat]
      simp only [eklen, if_true] at h
      omega
    all_goals
      rw [hi]
      rfl
  | false =>
    simp only [eklen, Bool.false_eq_true, if_false] at h
    simp [ek, effectiveKey, readKey, h]

/-- The loop of R160 sees only the index modulo the key's length. -/
theorem xortFrom_add_length (k : List Byte) (i : Nat) (bs : List Byte) :
    xortFrom k (i + k.length) bs = xortFrom k i bs := by
  induction bs generalizing i with
  | nil => rfl
  | cons b bs ih =>
    have hnext : i + k.length + 1 = i + 1 + k.length := by omega
    rw [xortFrom, xortFrom, Nat.add_mod_right, hnext, ih]

/-- A byte is XORed with the key byte under `KIDX`, and the wrap of `KIDX` is the index modulo the key's length. -/
theorem xorStep_conserves {s : State} (h : s.kidx.toNat < eklen s.dkr s) (b : Byte) (bs : List Byte) :
    cipheredFrom s (b :: bs) = (xorStep b s).1 :: cipheredFrom (xorStep b s).2 bs := by
  have hle := eklen_le s.dkr s
  have hlen := length_effectiveKey s.dkr s
  have hhead : (xorStep b s).1 =
      b ^^^ (effectiveKey s.dkr s).getD (s.kidx.toNat % (effectiveKey s.dkr s).length) 0x00#8 := by
    rw [hlen, Nat.mod_eq_of_lt h, ← ek_eq_getD s.dkr h]
    rfl
  have htail : xortFrom (effectiveKey s.dkr s) (xorStep b s).2.kidx.toNat bs =
      xortFrom (effectiveKey s.dkr s) (s.kidx.toNat + 1) bs := by
    rcases xorStep_kidx b s with ⟨hwrap, hk⟩ | ⟨_, hk⟩
    · rw [hk, hwrap, ← hlen]
      simpa using (xortFrom_add_length (effectiveKey s.dkr s) 0 bs).symm
    · have hnext : (s.kidx + 1#8).toNat = s.kidx.toNat + 1 := by
        rw [BitVec.toNat_add]
        simp only [BitVec.toNat_ofNat]
        omega
      rw [hk, hnext]
  rw [cipheredFrom, xortFrom, hhead, ← htail]
  rfl

/-! ### The operations (R188, R189) -/

/-- The items a running command still owes for the input to come, beyond what is in the queue. -/
def owed (s : State) (input : List Byte) : List Byte :=
  match opOfCode s.opr with
  | some .b64e => b64enc (heldBytes s ++ input)
  | some .b64d => decodedFrom s input
  | some .xort => cipheredFrom s input
  | some .aenc => b64enc (heldBytes s ++ cipheredFrom s input)
  | some .adec => cipheredFrom s (decodedFrom s input)
  | none => []

theorem owed_of_opr (s : State) (input : List Byte) :
    (s.opr = 1#3 → owed s input = b64enc (heldBytes s ++ input)) ∧
    (s.opr = 2#3 → owed s input = decodedFrom s input) ∧
    (s.opr = 3#3 → owed s input = cipheredFrom s input) ∧
    (s.opr = 4#3 → owed s input = b64enc (heldBytes s ++ cipheredFrom s input)) ∧
    (s.opr = 5#3 → owed s input = cipheredFrom s (decodedFrom s input)) := by
  refine ⟨?_, ?_, ?_, ?_, ?_⟩
  all_goals
    intro h
    simp [owed, h, opOfCode]

theorem item_opr (v : Byte) (s : State) : (item v s).opr = s.opr := by
  obtain ⟨_, _, _, _, _, _, _, hitem⟩ := item_frame v s
  rw [hitem]

theorem emitSome_oq (y : Option Byte) (s : State) : (emitSome y s).oq = s.oq ++ y.toList := by
  cases y
  · exact (List.append_nil s.oq).symm
  · rfl

theorem item_conserves_b64d {s : State} (hop : s.opr = 2#3) (hres : ResidueLegal s) (v : Byte) (input : List Byte) :
    (item v s).oq ++ decodedFrom (item v s) input = s.oq ++ decodedFrom s (v :: input) := by
  obtain ⟨_, hitem, _⟩ := item_of_opr v s
  obtain ⟨_, _, _, hdec⟩ := decStep_frame v s
  have hoq : (decStep v s).2.oq = s.oq := by rw [hdec]
  obtain ⟨_, hemit⟩ := emitSome_frame (decStep v s).1 (decStep v s).2
  have hrest : decodedFrom (item v s) input = decodedFrom (decStep v s).2 input := by
    rw [hitem hop, hemit]
    rfl
  rw [hrest, hitem hop, emitSome_oq, hoq, decStep_conserves hres, List.append_assoc]

theorem item_conserves_xort {s : State} (hop : s.opr = 3#3) (hidx : s.kidx.toNat < eklen s.dkr s) (v : Byte)
    (input : List Byte) : (item v s).oq ++ cipheredFrom (item v s) input = s.oq ++ cipheredFrom s (v :: input) := by
  obtain ⟨_, _, hitem, _⟩ := item_of_opr v s
  rw [hitem hop, xorStep_conserves hidx, emit_oq, List.append_assoc]
  rfl

theorem item_conserves_aenc {s : State} (hop : s.opr = 4#3) (hidx : s.kidx.toNat < eklen s.dkr s) (v : Byte)
    (input : List Byte) :
    (item v s).oq ++ b64enc (heldBytes (item v s) ++ cipheredFrom (item v s) input) =
      s.oq ++ b64enc (heldBytes s ++ cipheredFrom s (v :: input)) := by
  obtain ⟨_, _, _, hitem, _⟩ := item_of_opr v s
  obtain ⟨_, _, _, henc⟩ := encStep_frame (xorStep v s).1 (xorStep v s).2
  have hrest : cipheredFrom (item v s) input = cipheredFrom (xorStep v s).2 input := by
    rw [hitem hop, henc]
    rfl
  rw [hrest, hitem hop, encStep_conserves, xorStep_conserves hidx]
  rfl

theorem item_conserves_adec {s : State} (hop : s.opr = 5#3) (hres : ResidueLegal s)
    (hidx : s.kidx.toNat < eklen s.dkr s) (v : Byte) (input : List Byte) :
    (item v s).oq ++ cipheredFrom (item v s) (decodedFrom (item v s) input) =
      s.oq ++ cipheredFrom s (decodedFrom s (v :: input)) := by
  obtain ⟨_, _, _, _, hitem⟩ := item_of_opr v s
  obtain ⟨a, n, d, hdec⟩ := decStep_frame v s
  have hsame (bs : List Byte) : cipheredFrom (decStep v s).2 bs = cipheredFrom s bs := by
    rw [hdec]
    rfl
  have hoq : (decStep v s).2.oq = s.oq := by rw [hdec]
  have hidx' : (decStep v s).2.kidx.toNat < eklen (decStep v s).2.dkr (decStep v s).2 := by
    rw [hdec]
    exact hidx
  rw [hitem hop, decStep_conserves hres, ← hsame]
  cases (decStep v s).1 with
  | none => exact congrArg (· ++ _) hoq
  | some b =>
    rw [cipherSome, emit_oq, Option.toList_some, List.singleton_append, xorStep_conserves hidx', List.append_assoc,
      ← hoq]
    rfl

/-- An item puts into the queue exactly what the command no longer owes. -/
theorem item_conserves {s : State} (h : Inv s) (hrun : s.phase = .run) (v : Byte) (input : List Byte) :
    (item v s).oq ++ owed (item v s) input = s.oq ++ owed s (v :: input) := by
  obtain ⟨_, _, hres, _, ⟨hlegal, hopr⟩, ⟨_, hkey⟩, _⟩ := h
  have hbusy : s.phase ≠ .idle := by simp [hrun]
  have hidx (hkeyed : s.opr = 3#3 ∨ s.opr = 4#3 ∨ s.opr = 5#3) : s.kidx.toNat < eklen s.dkr s :=
    (hkey ⟨hbusy, hkeyed⟩).left
  have hkept := item_opr v s
  obtain ⟨hb64e, hb64d, hxort, haenc, hadec⟩ := owed_of_opr s (v :: input)
  obtain ⟨hb64e', hb64d', hxort', haenc', hadec'⟩ := owed_of_opr (item v s) input
  rcases opr_cases s.opr with hop | hop | hop | hop | hop | hop
  · obtain ⟨hitem, _⟩ := item_of_opr v s
    rw [hb64e hop, hb64e' (hkept.trans hop), hitem hop]
    exact encStep_conserves v input s
  · rw [hb64d hop, hb64d' (hkept.trans hop)]
    exact item_conserves_b64d hop hres v input
  · rw [hxort hop, hxort' (hkept.trans hop)]
    exact item_conserves_xort hop (hidx (.inl hop)) v input
  · rw [haenc hop, haenc' (hkept.trans hop)]
    exact item_conserves_aenc hop (hidx (.inr (.inl hop))) v input
  · rw [hadec hop, hadec' (hkept.trans hop)]
    exact item_conserves_adec hop hres (hidx (.inr (.inr hop))) v input
  · rcases (opOfCode_eq_none_iff s.opr).mp hop with h0 | h6 | h7
    · exact absurd h0 (hopr hbusy)
    · simp [h6] at hlegal
    · simp [h7] at hlegal

theorem cipheredFrom_nil (s : State) : cipheredFrom s [] = [] := rfl

theorem decodedFrom_nil (s : State) : decodedFrom s [] = [] := by
  simp [decodedFrom, b64decFrom]

/-- The end of the input puts into the queue all that is still owed (R189). -/
theorem flush_conserves {s : State} (h : EncoderCountLegal s) : (flush s).oq = s.oq ++ owed s [] := by
  obtain ⟨hb64e, hb64d, hxort, haenc, hadec⟩ := owed_of_opr s []
  obtain ⟨hflush, hkept⟩ := flush_of_opr s
  rcases opr_cases s.opr with hop | hop | hop | hop | hop | hop
  · rw [hflush (.inl hop), encFlush_conserves h, hb64e hop, List.append_nil]
  · rw [hkept (.inl hop), hb64d hop, decodedFrom_nil, List.append_nil]
  · rw [hkept (.inr (.inl hop)), hxort hop, cipheredFrom_nil, List.append_nil]
  · rw [hflush (.inr hop), encFlush_conserves h, haenc hop, cipheredFrom_nil, List.append_nil]
  · rw [hkept (.inr (.inr hop)), hadec hop, decodedFrom_nil, cipheredFrom_nil, List.append_nil]
  · simp [flush, owed, hop]

/-- A command just accepted owes its function of the input (R196). -/
theorem operation_eq_owed_accept (op : Op) (dk : Bool) (input : List Byte) (s : State)
    (hkey : keyed op = true → effectiveKey dk s ≠ []) :
    operation op input (effectiveKey dk s) = .seq (owed (accept op dk s) input) := by
  have hcipher (bs : List Byte) : cipheredFrom (accept op dk s) bs = xortFrom (effectiveKey dk s) 0 bs := rfl
  have hdecode : decodedFrom (accept op dk s) input = b64dec input := rfl
  have hheld : heldBytes (accept op dk s) = [] := rfl
  have howed : owed (accept op dk s) input = match op with
      | .b64e => b64enc input
      | .b64d => b64dec input
      | .xort => xortFrom (effectiveKey dk s) 0 input
      | .aenc => b64enc (xortFrom (effectiveKey dk s) 0 input)
      | .adec => xortFrom (effectiveKey dk s) 0 (b64dec input) := by
    rw [owed, accept_opr, opOfCode_opCode, hheld, hdecode, hcipher, hcipher]
    cases op <;> rfl
  rw [howed]
  cases op with
  | b64e | b64d => rfl
  | xort => rw [operation, xort, if_neg (hkey rfl)]
  | aenc => rw [operation, aenc, xort, if_neg (hkey rfl), if_neg (hkey rfl)]
  | adec => rw [operation, adec, xort, if_neg (hkey rfl), if_neg (hkey rfl)]

end Sys2Proof.Machine
end

section
/-! The canonical driver (30_encoding.md R105): it reads only what is there and writes only where there is room, so no
access of it is refused, and what it reads is what the command owed. -/

namespace Sys2Proof.Machine

/-! ### What the driver polls (R38, R103) -/

theorem polledStatus_eq (s : State) : polledStatus s = statusByte (beginAccess [] s) := by
  rw [polledStatus, issue_statWord]
  rfl

theorem mustMakeRoom_polledStatus (s : State) : mustMakeRoom (polledStatus s) = (!inRdy s && outVld s) := by
  obtain ⟨_, hrdy, hvld, _⟩ := statusByte_bits (beginAccess [] s)
  rw [polledStatus_eq, mustMakeRoom, hrdy, hvld]
  rfl

theorem hasOutput_polledStatus (s : State) : hasOutput (polledStatus s) = outVld s := by
  obtain ⟨_, _, hvld, _⟩ := statusByte_bits (beginAccess [] s)
  rw [polledStatus_eq, hasOutput, hvld]
  rfl

theorem polledStatus_ia (s : State) : (polledStatus s).getLsbD 4 = s.ia := by
  obtain ⟨_, _, _, _, hia, _⟩ := statusByte_bits (beginAccess [] s)
  rw [polledStatus_eq, hia]
  rfl

/-- A polling loop that does not go on is the poll. -/
theorem popWhile_of_not_more {more : Byte → Bool} {s : State} (h : more (polledStatus s) = false) (fuel : Nat) :
    popWhile more fuel s = (issue statWord s, []) := by
  cases fuel with
  | zero => rfl
  | succ fuel => simp [popWhile, h]

/-- A polling loop that goes on takes the head of the queue and goes on from there (R192). -/
theorem popWhile_succ_of_more {more : Byte → Bool} {s : State} (h : more (polledStatus s) = true) {y : Byte}
    {rest : List Byte} (hoq : s.oq = y :: rest) (fuel : Nat) :
    popWhile more (fuel + 1) s =
      ((popWhile more fuel (respond y (dropHead rest (beginAccess [] s)))).1,
        y :: (popWhile more fuel (respond y (dropHead rest (beginAccess [] s)))).2) := by
  have hpop : issue popWord (issue statWord s) = respond y (dropHead rest (beginAccess [] s)) := by
    have hoq' : (beginAccess [] (issue statWord s)).oq = y :: rest := by rw [issue_statWord]; exact hoq
    rw [issue_popWord, doutRead, hoq', issue_statWord]
    rfl
  simp only [popWhile, h, if_true, hpop, respond_rdata, Option.toList_some, List.singleton_append]

/-! ### While the command runs -/

/-- From `s` to `t` a running command takes the items `ins` and gives the items `outs`: nothing is refused, it still
runs, and nothing is lost, for what was queued and owed is given, queued or still owed. -/
structure Carries (s : State) (ins outs : List Byte) (t : State) : Prop where
  inv : Inv t
  run : t.phase = .run
  perr : t.perr = s.perr
  conserved : ∀ later, outs ++ (t.oq ++ owed t later) = s.oq ++ owed s (ins ++ later)

namespace Carries

theorem trans {s t u : State} {ins ins' outs outs' : List Byte} (h : Carries s ins outs t)
    (h' : Carries t ins' outs' u) : Carries s (ins ++ ins') (outs ++ outs') u where
  inv := h'.inv
  run := h'.run
  perr := h'.perr.trans h.perr
  conserved later := by
    rw [List.append_assoc, h'.conserved, h.conserved, List.append_assoc]

theorem stat {s : State} (h : Inv s) (hrun : s.phase = .run) : Carries s [] [] (issue statWord s) where
  inv := issue_inv h statWord
  run := by rw [issue_statWord]; exact hrun
  perr := by rw [issue_statWord]; rfl
  conserved later := by rw [issue_statWord]; rfl

theorem pop {s : State} (h : Inv s) (hrun : s.phase = .run) {y : Byte} {rest : List Byte} (hoq : s.oq = y :: rest) :
    Carries s [] [y] (respond y (dropHead rest (beginAccess [] s))) where
  inv := dropHead_inv (s := beginAccess [] s) h hoq
  run := by simp [hrun]
  perr := rfl
  conserved later := by rw [hoq]; rfl

theorem push {s : State} (h : Inv s) (hrdy : inRdy s = true) (v : Byte) : Carries s [v] [] (issue (pushWord v) s) := by
  obtain ⟨hrun, _⟩ := (inRdy_iff s).mp hrdy
  have hpush : issue (pushWord v) s = item v (beginAccess [] s) := by
    rw [issue_pushWord, dinWrite]
    exact if_pos hrdy
  obtain ⟨_, _, _, _, _, _, _, hitem⟩ := item_frame v (beginAccess [] s)
  refine ⟨issue_inv h (pushWord v), ?_, ?_, fun later => ?_⟩
  · rw [hpush, hitem]
    exact hrun
  · rw [hpush, hitem]
    rfl
  · rw [hpush]
    exact item_conserves (s := beginAccess [] s) h hrun v later

end Carries

/-- While a command runs without room for an item, there is one to read (R197). -/
theorem oq_ne_nil_of_not_inRdy {s : State} (h : Inv s) (hrun : s.phase = .run) (hrdy : inRdy s = false) :
    s.oq ≠ [] := by
  obtain ⟨hcfg, _⟩ := h
  intro hoq
  have hroom : HasRoom s := by simpa [HasRoom, hoq] using hcfg
  simp [(inRdy_iff s).mpr ⟨hrun, hroom⟩] at hrdy

/-- The loop of `PUSHW` and `FINW` ends with room for an item, whatever it had to read for that. -/
theorem popWhile_mustMakeRoom (fuel : Nat) {s : State} (h : Inv s) (hrun : s.phase = .run)
    (hfuel : s.oq.length ≤ fuel) :
    Carries s [] (popWhile mustMakeRoom fuel s).2 (popWhile mustMakeRoom fuel s).1 ∧
    inRdy (popWhile mustMakeRoom fuel s).1 = true := by
  have hmore := mustMakeRoom_polledStatus s
  cases hrdy : inRdy s with
  | true =>
    rw [popWhile_of_not_more (by simp [hmore, hrdy])]
    exact ⟨.stat h hrun, by rw [issue_statWord]; exact hrdy⟩
  | false =>
    have hne := oq_ne_nil_of_not_inRdy h hrun hrdy
    obtain ⟨y, rest, hoq⟩ := List.exists_cons_of_ne_nil hne
    have hpop := Carries.pop h hrun hoq
    cases fuel with
    | zero => simp [hoq] at hfuel
    | succ fuel =>
      obtain ⟨hloop, hend⟩ := popWhile_mustMakeRoom fuel hpop.inv hpop.run (by simpa [hoq] using hfuel)
      rw [popWhile_succ_of_more (by simp [hmore, hrdy, outVld_eq_decide, hne]) hoq]
      exact ⟨hpop.trans hloop, hend⟩

theorem issueWhenReady_eq (w : BusWord) (s : State) :
    issueWhenReady w s = (issue w (popWhile mustMakeRoom s.oq.length s).1, (popWhile mustMakeRoom s.oq.length s).2) :=
  rfl

theorem issueWhenReady_pushWord (v : Byte) {s : State} (h : Inv s) (hrun : s.phase = .run) :
    Carries s [v] (issueWhenReady (pushWord v) s).2 (issueWhenReady (pushWord v) s).1 := by
  obtain ⟨hroom, hrdy⟩ := popWhile_mustMakeRoom s.oq.length h hrun le_rfl
  rw [issueWhenReady_eq]
  simpa using hroom.trans (Carries.push hroom.inv hrdy v)

theorem pushAllWhenReady_cons (v : Byte) (vs : List Byte) (s : State) :
    pushAllWhenReady (v :: vs) s =
      ((pushAllWhenReady vs (issueWhenReady (pushWord v) s).1).1,
        (issueWhenReady (pushWord v) s).2 ++ (pushAllWhenReady vs (issueWhenReady (pushWord v) s).1).2) := rfl

theorem pushAllWhenReady_carries (vs : List Byte) {s : State} (h : Inv s) (hrun : s.phase = .run) :
    Carries s vs (pushAllWhenReady vs s).2 (pushAllWhenReady vs s).1 := by
  induction vs generalizing s with
  | nil => exact ⟨h, hrun, rfl, fun _ => rfl⟩
  | cons v vs ih =>
    have hpush := issueWhenReady_pushWord v h hrun
    rw [pushAllWhenReady_cons]
    exact hpush.trans (ih hpush.inv hpush.run)

/-! ### The end of the command -/

/-- From `s` to `t` the input of a running command ends, nothing is refused, and all it owed is given or in the queue;
`t` is `IDLE` where the queue is empty and `DRAIN` elsewhere. -/
structure Ends (s : State) (outs : List Byte) (t : State) : Prop where
  phase : t.phase = if t.oq = [] then .idle else .drain
  perr : t.perr = s.perr
  given : outs ++ t.oq = s.oq ++ owed s []

theorem issue_finWord_ends {s : State} (h : Inv s) (hrdy : inRdy s = true) : Ends s [] (issue finWord s) := by
  obtain ⟨_, hcount, _⟩ := h
  have hfin : issue finWord s = endInput (flush (beginAccess [] s)) := by
    rw [issue_finWord, finWrite]
    exact if_pos hrdy
  obtain ⟨_, _, hflush⟩ := flush_frame (beginAccess [] s)
  refine ⟨?_, ?_, ?_⟩
  · rw [hfin]
    rfl
  · rw [hfin, hflush]
    rfl
  · rw [hfin]
    exact flush_conserves (s := beginAccess [] s) hcount

theorem issueWhenReady_finWord {s : State} (h : Inv s) (hrun : s.phase = .run) :
    Ends s (issueWhenReady finWord s).2 (issueWhenReady finWord s).1 := by
  obtain ⟨hroom, hrdy⟩ := popWhile_mustMakeRoom s.oq.length h hrun le_rfl
  obtain ⟨hphase, hperr, hgiven⟩ := issue_finWord_ends hroom.inv hrdy
  rw [issueWhenReady_eq]
  refine ⟨hphase, hperr.trans hroom.perr, ?_⟩
  rw [List.nil_append] at hgiven
  rw [hgiven, hroom.conserved, List.append_nil]

/-- `POPALL` after the end of the input returns the queue in order and leaves the block in `IDLE`. -/
theorem popWhile_hasOutput (fuel : Nat) {s : State} (hphase : s.phase = if s.oq = [] then .idle else .drain)
    (hfuel : s.oq.length ≤ fuel) :
    (popWhile hasOutput fuel s).1.phase = .idle ∧ (popWhile hasOutput fuel s).1.perr = s.perr ∧
    (popWhile hasOutput fuel s).2 = s.oq := by
  have hmore := hasOutput_polledStatus s
  cases hoq : s.oq with
  | nil =>
    rw [popWhile_of_not_more (by simp [hmore, outVld_eq_decide, hoq]), issue_statWord]
    exact ⟨by simp [hphase, hoq], rfl, rfl⟩
  | cons y rest =>
    have hnext : (respond y (dropHead rest (beginAccess [] s))).phase = if rest = [] then .idle else .drain := by
      simp [hphase, hoq]
    cases fuel with
    | zero => simp [hoq] at hfuel
    | succ fuel =>
      obtain ⟨hidle, hperr, hout⟩ := popWhile_hasOutput fuel hnext (by simpa [hoq] using hfuel)
      rw [popWhile_succ_of_more (by simp [hmore, outVld_eq_decide, hoq]) hoq]
      exact ⟨hidle, hperr, congrArg (y :: ·) hout⟩

/-! ### The whole program -/

theorem drive_of_failed {op : Op} {dk : Bool} {s : State} (h : (issue (startWord op dk) s).ia = true)
    (input : List Byte) : drive op dk input s = (issue statWord (issue (startWord op dk) s), none) := by
  simp only [drive, polledStatus_ia, h, if_true]

/-- The driver past the poll: the input, its end and the rest of the output, from the state polled on. -/
theorem drive_of_started {op : Op} {dk : Bool} {s t : State} (h : (issue (startWord op dk) s).ia = false)
    (ht : issue statWord (issue (startWord op dk) s) = t) (input : List Byte) :
    drive op dk input s =
      ((popAll (issueWhenReady finWord (pushAllWhenReady input t).1).1).1,
        some ((pushAllWhenReady input t).2 ++ (issueWhenReady finWord (pushAllWhenReady input t).1).2 ++
          (popAll (issueWhenReady finWord (pushAllWhenReady input t).1).1).2)) := by
  simp only [drive, polledStatus_ia, h, ht, Bool.false_eq_true, if_false]

/-- A running command driven to its end gives, in order, what was queued and all it owed for the input. -/
theorem drive_running (input : List Byte) {t : State} (h : Inv t) (hrun : t.phase = .run) :
    (popAll (issueWhenReady finWord (pushAllWhenReady input t).1).1).1.phase = .idle ∧
    (popAll (issueWhenReady finWord (pushAllWhenReady input t).1).1).1.perr = t.perr ∧
    (pushAllWhenReady input t).2 ++ (issueWhenReady finWord (pushAllWhenReady input t).1).2 ++
      (popAll (issueWhenReady finWord (pushAllWhenReady input t).1).1).2 = t.oq ++ owed t input := by
  have hpush := pushAllWhenReady_carries input h hrun
  obtain ⟨hphase, hperr, hgiven⟩ := issueWhenReady_finWord hpush.inv hpush.run
  obtain ⟨hidle, hperr', hout⟩ := popWhile_hasOutput _ hphase le_rfl
  refine ⟨hidle, hperr'.trans (hperr.trans hpush.perr), ?_⟩
  rw [popAll, hout, List.append_assoc, hgiven, hpush.conserved, List.append_nil]

theorem startCommand_of_key {op : Op} {dk : Bool} {s : State} (hidle : s.phase = .idle)
    (hkey : keyed op = false ∨ dk = true ∨ s.klen ≠ 0x00#8) : startCommand op dk s = accept op dk s := by
  rcases startCommand_cases op dk s with ⟨hbusy, _⟩ | ⟨_, hkeyed, hdk, hklen, _⟩ | ⟨_, _, h⟩
  · exact absurd hidle hbusy
  · simp [hkeyed, hdk, hklen] at hkey
  · exact h

theorem startCommand_of_emptyKey {op : Op} {s : State} (hidle : s.phase = .idle) (hkeyed : keyed op = true)
    (hklen : s.klen = 0x00#8) : startCommand op false s = raiseInvalidArgument s := by
  rcases startCommand_cases op false s with ⟨hbusy, _⟩ | ⟨_, _, _, _, h⟩ | ⟨_, hkey, _⟩
  · exact absurd hidle hbusy
  · exact h
  · simp [hkeyed, hklen] at hkey

/-- The driver on a command that has its key, or needs none. -/
theorem drive_accepted {op : Op} {dk : Bool} {s : State} (h : Inv s) (hidle : s.phase = .idle) (hia : s.ia = false)
    (hkey : keyed op = false ∨ dk = true ∨ s.klen ≠ 0x00#8) (input : List Byte) :
    (drive op dk input s).1.phase = .idle ∧ (drive op dk input s).1.perr = s.perr ∧
    ∃ out, operation op input (effectiveKey dk s) = .seq out ∧ (drive op dk input s).2 = some out := by
  have hstart : issue (startWord op dk) s = accept op dk (beginAccess [] s) := by
    rw [issue_startWord]
    exact startCommand_of_key hidle hkey
  have hnonempty : keyed op = true → effectiveKey dk (beginAccess [] s) ≠ [] := fun hkeyed => by
    have hpos : 1 ≤ eklen dk (beginAccess [] s) := eklen_pos (by simpa [hkeyed] using hkey)
    rw [← length_effectiveKey] at hpos
    exact List.ne_nil_of_length_pos hpos
  have hfun := operation_eq_owed_accept op dk input (beginAccess [] s) hnonempty
  have hinv := issue_inv (issue_inv h (startWord op dk)) statWord
  obtain ⟨_, _, _, ⟨_, hempty, _⟩, _⟩ := h
  generalize ht : issue statWord (issue (startWord op dk) s) = t at hinv
  have ht' : t = respond (statusByte (beginAccess [] (accept op dk (beginAccess [] s))))
      (beginAccess [] (accept op dk (beginAccess [] s))) := by rw [← ht, hstart, issue_statWord]
  have hrun : t.phase = .run := by rw [ht']; rfl
  have hperr : t.perr = s.perr := by rw [ht']; rfl
  have hoq : t.oq = [] := by rw [ht']; exact hempty hidle
  have howed : owed t input = owed (accept op dk (beginAccess [] s)) input := by rw [ht']; rfl
  obtain ⟨hidle', hperr', hout⟩ := drive_running input hinv hrun
  rw [drive_of_started (by rw [hstart]; exact hia) ht]
  exact ⟨hidle', hperr'.trans hperr, _, hfun, by rw [hout, hoq, howed, List.nil_append]⟩

/-- The driver on a command that lacks its key stops at the poll (R179, R212). -/
theorem drive_emptyKey {op : Op} {s : State} (hidle : s.phase = .idle) (hkeyed : keyed op = true)
    (hklen : s.klen = 0x00#8) (input : List Byte) :
    (drive op false input s).1.phase = .idle ∧ (drive op false input s).1.perr = s.perr ∧
    (drive op false input s).2 = none ∧ (drive op false input s).1.ia = true := by
  have hstart : issue (startWord op false) s = raiseInvalidArgument (beginAccess [] s) := by
    rw [issue_startWord]
    exact startCommand_of_emptyKey hidle hkeyed hklen
  rw [drive_of_failed (by rw [hstart]; rfl), hstart, issue_statWord]
  exact ⟨hidle, rfl, rfl, rfl⟩

theorem operation_emptyKey {op : Op} (hkeyed : keyed op = true) (input : List Byte) :
    operation op input [] = .invalidArgument := by
  cases op with
  | b64e | b64d => cases hkeyed
  | xort | aenc | adec => rfl

theorem operation_of_not_keyed {op : Op} (hkeyed : keyed op = false) (input k k' : List Byte) :
    operation op input k = operation op input k' := by
  cases op with
  | b64e | b64d => rfl
  | xort | aenc | adec => cases hkeyed

theorem klen_ldkeyWords_eq_zero_iff {k : List Byte} {s : State} (hidle : s.phase = .idle) (hk : k.length ≤ 255) :
    (issueAll (ldkeyWords k) s).klen = 0x00#8 ↔ k = [] := by
  rw [← BitVec.toNat_inj, toNat_ldkeyWords_klen hidle hk]
  exact List.length_eq_zero_iff

/-- The function the driver is to return is the one of the effective key it starts the command with, where it loads no
key. -/
theorem operation_effectiveKey {op : Op} {dk : Bool} (hkey : keyed op = false ∨ dk = true) (input k : List Byte)
    (s : State) : operation op input (effectiveKey dk s) = operation op input (if dk then defaultKey else k) := by
  rcases hkey with hkeyed | rfl
  · exact operation_of_not_keyed hkeyed input _ _
  · rfl

/-- Settles O60: with a key of the host's own the driver loads it first; then the command starts or fails by the key
alone, and driven on it gives all it owes. -/
theorem canonicalDriverReturnsTheResult : Obligations.CanonicalDriverReturnsTheResult := by
  unfold Obligations.CanonicalDriverReturnsTheResult
  intro op dk k input s h hidle hia hk
  by_cases hload : keyed op = true ∧ dk = false
  · obtain ⟨hkeyed, rfl⟩ := hload
    obtain ⟨hkey, hidle', hperr, hia', _⟩ := loadKeyMakesTheEffectiveKey k s hidle hk
    have hzero := klen_ldkeyWords_eq_zero_iff hidle hk
    have hdriver : canonicalDriver op false k input s = drive op false input (issueAll (ldkeyWords k) s) := by
      simp [canonicalDriver, hkeyed]
    simp only [hdriver, Bool.false_eq_true, if_false]
    by_cases hempty : k = []
    · obtain ⟨hphase, hperr', hnone, hset⟩ := drive_emptyKey hidle' hkeyed (hzero.mpr hempty) input
      rw [hempty, operation_emptyKey hkeyed, ← hempty]
      exact ⟨hphase, hperr'.trans hperr, hnone, hset⟩
    · have hklen := mt hzero.mp hempty
      obtain ⟨hphase, hperr', out, hfun, hout⟩ :=
        drive_accepted (issueAll_inv h (ldkeyWords k)) hidle' (hia'.trans hia) (.inr (.inr hklen)) input
      rw [hkey] at hfun
      rw [hfun]
      exact ⟨hphase, hperr'.trans hperr, hout⟩
  · have hnoload : keyed op = false ∨ dk = true := by
      cases hkeyed : keyed op <;> cases dk <;> simp [hkeyed] at hload ⊢
    have hdriver : canonicalDriver op dk k input s = drive op dk input s := by
      rcases hnoload with hkeyed | rfl
      · simp [canonicalDriver, hkeyed]
      · simp [canonicalDriver]
    obtain ⟨hphase, hperr, out, hfun, hout⟩ :=
      drive_accepted h hidle hia (hnoload.imp_right .inl) input
    simp only [hdriver]
    rw [← operation_effectiveKey hnoload input k s, hfun]
    exact ⟨hphase, hperr, hout⟩

end Sys2Proof.Machine
end

section
/-! One access to the encoder (40_base64_encoder.md R122, R124, R126): the command accepted, a byte taken, the end of
the input. -/

namespace Sys2Proof.Machine

/-! ### The command (R122, R142) -/

/-- Settles O17: an unkeyed command in `IDLE` meets neither refusal of `CmdWrite`. -/
theorem unkeyedCommandsAreAccepted : Obligations.UnkeyedCommandsAreAccepted := by
  unfold Obligations.UnkeyedCommandsAreAccepted
  intro dk s hidle
  have haccepted (op : Op) (hop : keyed op = false) : startCommand op dk s = accept op dk s :=
    startCommand_of_key hidle (.inl hop)
  rw [exec_b64e, exec_b64d, haccepted .b64e rfl, haccepted .b64d rfl]
  exact ⟨rfl, rfl⟩

/-! ### A byte (R124, R186) -/

theorem exec_push_of_room {s : State} (hrun : s.phase = .run) (hroom : HasRoom s) (v : Byte) :
    exec (.push v) s = .next (item v s) := by
  rw [exec_push, dinWrite, if_pos ((inRdy_iff s).mpr ⟨hrun, hroom⟩)]

/-- The second byte of a group is held in `EBUF[7:0]` (R124). -/
theorem encStep_second {s : State} (h : s.ecnt = 1#2) (x : Byte) :
    encStep x s = { s with ebuf := ebufHi s ++ x, ecnt := 2#2 } := by
  simp [encStep, h]

/-- The third byte completes the group, and its four characters leave by the fields of R100 (R124). -/
theorem encStep_third {s : State} (h : s.ecnt = 2#2) (x : Byte) :
    encStep x s = { s with
      ecnt := 0#2
      oq := s.oq ++ [alpha (s.ebuf.extractLsb' 10 6), alpha (s.ebuf.extractLsb' 8 2 ++ s.ebuf.extractLsb' 4 4),
        alpha (s.ebuf.extractLsb' 0 4 ++ x.extractLsb' 6 2), alpha (x.extractLsb' 0 6)] } := by
  simp [encStep, h, emitAll, enc4_group]

/-- Settles O34: in `B64E` an item is one `EncStep`, by the bytes held before it. -/
theorem encoderTakesAByte : Obligations.EncoderTakesAByte := by
  unfold Obligations.EncoderTakesAByte
  intro v s hrun hroom hop
  obtain ⟨hitem, _⟩ := item_of_opr v s
  rw [exec_push_of_room hrun hroom, hitem hop]
  refine ⟨fun h0 => ?_, fun h1 => ?_, fun h2 => ?_⟩
  · exact congrArg _ (encStep_first h0 v)
  · exact congrArg _ (encStep_second h1 v)
  · exact congrArg _ (encStep_third h2 v)

/-! ### The end of the input (R126, R189, R190) -/

theorem exec_fin_of_room {s : State} (hrun : s.phase = .run) (hroom : HasRoom s) (x : Byte) :
    exec (.fin x) s = .next (endInput (flush s)) := by
  rw [exec_fin, finWrite, if_pos ((inRdy_iff s).mpr ⟨hrun, hroom⟩)]

/-- The fields that lie in `EBUF[15:8]` do not depend on what stands below it. -/
theorem extractLsb'_ebufHi_append (s : State) (y : Byte) {start len : Nat} (h : 8 ≤ start) :
    (ebufHi s ++ y : BitVec 16).extractLsb' start len = s.ebuf.extractLsb' start len := by
  conv_rhs => rw [← ebuf_halves s]
  exact (BitVec.extractLsb'_append_eq_of_le h).trans (BitVec.extractLsb'_append_eq_of_le h).symm

/-- The padded group of one held byte, by the fields of R100. -/
theorem encOne_ebuf (s : State) :
    encOne (ebufHi s) =
      [alpha (s.ebuf.extractLsb' 10 6), alpha (s.ebuf.extractLsb' 8 2 ++ 0b0000#4), 0x3D#8, 0x3D#8] := by
  have hlow : (ebufHi s ++ 0x00#8 : BitVec 16).extractLsb' 4 4 = 0b0000#4 :=
    BitVec.extractLsb'_append_eq_of_add_le (by decide)
  rw [encOne, enc4_group, extractLsb'_ebufHi_append s _ (by decide), extractLsb'_ebufHi_append s _ (by decide), hlow]
  rfl

/-- The padded group of two held bytes, by the fields of R100. -/
theorem encTwo_ebuf (s : State) :
    encTwo (ebufHi s) (ebufLo s) =
      [alpha (s.ebuf.extractLsb' 10 6), alpha (s.ebuf.extractLsb' 8 2 ++ s.ebuf.extractLsb' 4 4),
        alpha (s.ebuf.extractLsb' 0 4 ++ 0b00#2), 0x3D#8] := by
  rw [encTwo, ebuf_halves, enc4_group]
  rfl

/-- Items just emitted keep the command from completing. -/
theorem endInput_emitted (s : State) (e : BitVec 2) (v : Byte) (vs : List Byte) :
    endInput { s with oq := s.oq ++ v :: vs, ecnt := e } =
      { s with phase := .drain, ecnt := e, oq := s.oq ++ v :: vs } := by
  simp [endInput]

/-- Settles O39: the decoder and the cipher have no flush; the encoder's is that of the bytes it holds. -/
theorem endOfInputFlushesAndLeavesRun : Obligations.EndOfInputFlushesAndLeavesRun := by
  unfold Obligations.EndOfInputFlushesAndLeavesRun
  intro x s hrun hroom
  obtain ⟨hflush, hkept⟩ := flush_of_opr s
  rw [exec_fin_of_room hrun hroom]
  refine ⟨fun hop => ?_, fun hop => ?_⟩
  · rw [hkept hop]
    rfl
  rw [hflush hop]
  rcases encFlush_cases s with ⟨h1, hstep⟩ | ⟨h2, hstep⟩ | ⟨h1, h2, hstep⟩
  · rw [hstep, encOne_ebuf, endInput_emitted]
    simp [h1]
  · rw [hstep, encTwo_ebuf, endInput_emitted]
    simp [h2]
  · refine ⟨fun h0 => ?_, fun h => absurd h h1, fun h => absurd h h2⟩
    rw [hstep, ← h0]
    rfl

end Sys2Proof.Machine
end

section
/-! The encoder function (40_base64_encoder.md R120, R121): its laws, that the decoder undoes it (R129), and that the
encoder's steps compute it (R127). -/

namespace Sys2Proof.Machine

/-! ### Decoding what was encoded (R129) -/

/-- A character of the alphabet as the loop of R140 takes it with two or more bits held: the next six bits of `w` join
the `m + 2` bits above them, and the top eight of these leave. -/
theorem b64decFrom_field (w : BitVec 24) (k m : Nat) (t : List Byte) :
    b64decFrom (w.toNat / 2 ^ (k + 6) % 2 ^ (m + 2)) (m + 2) (alpha (w.extractLsb' k 6) :: t) =
      w.extractLsb' (k + m) 8 :: b64decFrom (w.toNat / 2 ^ k % 2 ^ m) m t := by
  have hbuffer : w.toNat / 2 ^ (k + 6) % 2 ^ (m + 2) * 2 ^ 6 + (w.extractLsb' k 6).toNat =
      w.toNat / 2 ^ k % (2 ^ m * 2 ^ 8) := by
    have hpow : 2 ^ m * 2 ^ 8 = 2 ^ 6 * 2 ^ (m + 2) := by ring
    rw [hpow, Nat.mod_mul, BitVec.extractLsb'_toNat, Nat.shiftRight_eq_div_pow, Nat.div_div_eq_div_mul, ← pow_add]
    ring
  have hbyte : BitVec.ofNat 8 (w.toNat / 2 ^ k % (2 ^ m * 2 ^ 8) / 2 ^ m) = w.extractLsb' (k + m) 8 := by
    apply BitVec.eq_of_toNat_eq
    rw [BitVec.toNat_ofNat, Nat.mod_mul_right_div_self, Nat.mod_mod, Nat.div_div_eq_div_mul, ← pow_add,
      BitVec.extractLsb'_toNat, Nat.shiftRight_eq_div_pow]
  have hfull : 8 ≤ m + 2 + 6 := by omega
  have hheld : m + 2 + 6 - 8 = m := by omega
  simp only [b64decFrom, cls_alpha, if_pos hfull, hheld, hbuffer, hbyte, Nat.mod_mul_right_mod]

/-- The first character of a group only fills the buffer. -/
theorem b64dec_first (w : BitVec 24) (t : List Byte) :
    b64dec (alpha (w.extractLsb' 18 6) :: t) = b64decFrom (w.toNat / 2 ^ (12 + 6) % 2 ^ (4 + 2)) (4 + 2) t := by
  simp [b64dec, b64decFrom, cls_alpha, BitVec.extractLsb'_toNat, Nat.shiftRight_eq_div_pow]

/-- The second character of a group completes its first byte. -/
theorem b64dec_second (w : BitVec 24) (t : List Byte) :
    b64dec (alpha (w.extractLsb' 18 6) :: alpha (w.extractLsb' 12 6) :: t) =
      w.extractLsb' 16 8 :: b64decFrom (w.toNat / 2 ^ (6 + 6) % 2 ^ (2 + 2)) (2 + 2) t := by
  rw [b64dec_first, b64decFrom_field w 12 4]

/-- The third character of a group completes its second byte. -/
theorem b64dec_third (w : BitVec 24) (t : List Byte) :
    b64dec (alpha (w.extractLsb' 18 6) :: alpha (w.extractLsb' 12 6) :: alpha (w.extractLsb' 6 6) :: t) =
      w.extractLsb' 16 8 :: w.extractLsb' 8 8 :: b64decFrom (w.toNat / 2 ^ (0 + 6) % 2 ^ (0 + 2)) (0 + 2) t := by
  rw [b64dec_second, b64decFrom_field w 6 2]

/-- The fourth character of a group completes its third byte and leaves nothing held. -/
theorem b64dec_enc4 (w : BitVec 24) (t : List Byte) :
    b64dec (enc4 w ++ t) = w.extractLsb' 16 8 :: w.extractLsb' 8 8 :: w.extractLsb' 0 8 :: b64dec t := by
  show b64dec (_ :: _ :: _ :: _ :: t) = _
  rw [b64dec_third, b64decFrom_field w 0 0, pow_zero, Nat.mod_one, b64dec]

theorem b64decFrom_padChar (acc n : Nat) (t : List Byte) : b64decFrom acc n (padChar :: t) = [] := rfl

/-- The three bytes of a group, read back from it (R123). -/
theorem group_bytes (x y z : Byte) :
    (x ++ y ++ z : BitVec 24).extractLsb' 16 8 = x ∧ (x ++ y ++ z : BitVec 24).extractLsb' 8 8 = y ∧
    (x ++ y ++ z : BitVec 24).extractLsb' 0 8 = z := by
  refine ⟨?_, ?_, ?_⟩
  · exact (BitVec.extractLsb'_append_eq_of_le (by decide)).trans (ebufHi_pair x y)
  · exact (BitVec.extractLsb'_append_eq_of_le (by decide)).trans (ebufLo_pair x y)
  · exact BitVec.extractLsb'_append_eq_right

theorem b64dec_encFull (x y z : Byte) (t : List Byte) : b64dec (encFull x y z ++ t) = x :: y :: z :: b64dec t := by
  obtain ⟨hx, hy, hz⟩ := group_bytes x y z
  rw [encFull, b64dec_enc4, hx, hy, hz]

theorem b64dec_encTwo (x y : Byte) : b64dec (encTwo x y) = [x, y] := by
  obtain ⟨hx, hy, _⟩ := group_bytes x y 0x00#8
  show b64dec (_ :: _ :: _ :: [padChar]) = _
  rw [b64dec_third, b64decFrom_padChar, hx, hy]

theorem b64dec_encOne (x : Byte) : b64dec (encOne x) = [x] := by
  obtain ⟨hx, _⟩ := group_bytes x 0x00#8 0x00#8
  show b64dec (_ :: _ :: [padChar, padChar]) = _
  rw [b64dec_second, b64decFrom_padChar, hx]

/-- Settles O49, by induction on the groups of three as `b64enc` takes them. -/
theorem decodingUndoesEncoding : Obligations.DecodingUndoesEncoding := by
  unfold Obligations.DecodingUndoesEncoding
  intro bs
  induction bs using b64enc.induct with
  | case1 x y z rest ih => rw [b64enc, b64dec_encFull, ih]
  | case2 x y => exact b64dec_encTwo x y
  | case3 x => exact b64dec_encOne x
  | case4 => rfl

/-! ### The laws of the encoder (R121) -/

/-- R121 (a). -/
theorem length_b64enc (bs : List Byte) : (b64enc bs).length = 4 * ((bs.length + 2) / 3) := by
  induction bs using b64enc.induct with
  | case1 x y z rest ih =>
    have hfour : (encFull x y z).length = 4 := rfl
    rw [b64enc, List.length_append, hfour, ih]
    simp only [List.length_cons]
    omega
  | case2 | case3 => simp [b64enc, encTwo, encOne, enc4]
  | case4 => rfl

/-- R121 (c), (d): characters of the alphabet, then the padding. -/
theorem b64enc_eq_alpha_append_pad (bs : List Byte) :
    ∃ pre : List (BitVec 6), b64enc bs = pre.map alpha ++ List.replicate ((3 - bs.length % 3) % 3) 0x3D#8 := by
  induction bs using b64enc.induct with
  | case1 x y z rest ih =>
    obtain ⟨pre, hpre⟩ := ih
    have hmod : (x :: y :: z :: rest).length % 3 = rest.length % 3 := Nat.add_mod_right rest.length 3
    rw [b64enc, hpre, hmod, ← List.append_assoc]
    exact ⟨_ :: _ :: _ :: _ :: pre, rfl⟩
  | case2 => exact ⟨[_, _, _], rfl⟩
  | case3 => exact ⟨[_, _], rfl⟩
  | case4 => exact ⟨[], rfl⟩

/-- R121 (f): the encoder distributes over whole groups of three. -/
theorem b64enc_append (x y : List Byte) (h : x.length % 3 = 0) : b64enc (x ++ y) = b64enc x ++ b64enc y := by
  induction x using b64enc.induct with
  | case1 b0 b1 b2 rest ih =>
    have hrest : rest.length % 3 = 0 := (Nat.add_mod_right rest.length 3).symm.trans h
    rw [b64enc, List.append_assoc, ← ih hrest]
    rfl
  | case2 | case3 => simp at h
  | case4 => rfl

/-- Settles O46: `b64enc` is injective because the decoder undoes it. -/
theorem encoderFunctionLaws : Obligations.EncoderFunctionLaws := by
  unfold Obligations.EncoderFunctionLaws
  refine ⟨length_b64enc, b64enc_eq_alpha_append_pad, rfl, fun x y h => ?_, b64enc_append⟩
  calc
    x = b64dec (b64enc x) := (decodingUndoesEncoding x).symm
    _ = b64dec (b64enc y) := by rw [h]
    _ = y := decodingUndoesEncoding y

/-! ### The steps (R127) -/

/-- R45 (b) is kept by a byte, whatever the block is doing. -/
theorem encStep_encoderCountLegal (x : Byte) (s : State) : EncoderCountLegal (encStep x s) := by
  rcases encStep_cases x s with ⟨_, hstep⟩ | ⟨_, hstep⟩ | ⟨_, _, hstep⟩
  · exact .inr (.inl (by rw [hstep]))
  · exact .inr (.inr (by rw [hstep]))
  · exact .inl (by rw [hstep])

/-- The steps and the flush emit the function of the bytes held before and the bytes taken, from any `ECNT`. -/
theorem encFlush_encSteps (bs : List Byte) {s : State} (h : EncoderCountLegal s) :
    (encFlush (encSteps bs s)).oq = s.oq ++ b64enc (heldBytes s ++ bs) := by
  induction bs generalizing s with
  | nil => rw [List.append_nil, encSteps, encFlush_conserves h]
  | cons b bs ih => rw [encSteps, ih (encStep_encoderCountLegal b s), encStep_conserves]

/-- Settles O52: with `ECNT = 0` nothing is held before the first byte. -/
theorem encoderStepsComputeTheFunction : Obligations.EncoderStepsComputeTheFunction := by
  unfold Obligations.EncoderStepsComputeTheFunction
  intro bs s h
  have hheld : heldBytes s = [] := by simp [heldBytes, h]
  rw [encFlush_encSteps bs (.inl h), hheld, List.nil_append]

/-! ### The examples of the source (R130, R150, R155, R182, R183) -/

/-- Settles O45, by evaluating the functions at each of the examples. -/
theorem sourceExamplesHold : Obligations.SourceExamplesHold := by
  unfold Obligations.SourceExamplesHold
  refine ⟨rfl, ?_, ?_, ?_, ?_, ?_, ?_, ?_, ?_, ?_⟩
  all_goals decide

end Sys2Proof.Machine
end

section
/-! One character taken by the decoder (41_base64_decoder.md R142, R146), by its class and by the bits held before it. -/

namespace Sys2Proof.Machine

/-! ### The classes of character (R96) -/

theorem cls_eq_pad_iff (c : Byte) : cls c = .pad ↔ c = 0x3D#8 := by
  constructor
  · intro h
    unfold cls at h
    split_ifs at h
    assumption
  · rintro rfl
    rfl

/-- A character that is neither `=` nor in the alphabet is skipped. -/
theorem cls_eq_skip {c : Byte} (hpad : c ≠ 0x3D#8) (hsym : ∀ v, c ≠ alpha v) : cls c = .skip := by
  cases hc : cls c with
  | sym v => exact absurd (alpha_of_cls_sym hc).symm (hsym v)
  | pad => exact absurd ((cls_eq_pad_iff c).mp hc) hpad
  | skip => rfl

/-! ### The step, by the class (R146) -/

theorem decStep_of_stopped {s : State} (h : s.dstop = true) (c : Byte) : decStep c s = (none, s) := by
  simp [decStep, h]

theorem decStep_of_pad {s : State} (h : s.dstop = false) {c : Byte} (hc : cls c = .pad) :
    decStep c s = (none, { s with dstop := true }) := by
  simp [decStep, h, hc]

theorem decStep_of_skip (s : State) {c : Byte} (hc : cls c = .skip) : decStep c s = (none, s) := by
  simp [decStep, hc]

theorem decStep_of_sym {s : State} (h : s.dstop = false) {c : Byte} {v : BitVec 6} (hc : cls c = .sym v) :
    decStep c s = decSymbol v s := by
  simp [decStep, h, hc]

/-! ### A symbol, by the number of bits held (R146) -/

/-- What is left of the temporary below its top byte are the low bits of the symbol. -/
theorem lowBits_temporary (a v : BitVec 6) {n : Nat} (h : n ≤ 6) :
    lowBits (a ++ v) n = (v.extractLsb' 0 n).setWidth 6 := by
  have hdvd : 2 ^ n ∣ a.toNat * 2 ^ 6 := (Nat.pow_dvd_pow 2 h).mul_left a.toNat
  have hlt : v.toNat % 2 ^ n < 2 ^ 6 := lt_of_le_of_lt (Nat.mod_le _ _) v.isLt
  apply BitVec.eq_of_toNat_eq
  rw [toNat_lowBits _ _ h, toNat_temporary, ← Nat.mod_add_mod, Nat.mod_eq_zero_of_dvd hdvd, Nat.zero_add,
    BitVec.toNat_setWidth, BitVec.extractLsb'_toNat, Nat.shiftRight_zero, Nat.mod_eq_of_lt hlt]

theorem decSymbol_none_held {s : State} (h : s.dnb = 0#3) (v : BitVec 6) :
    decSymbol v s = (none, { s with dacc := v, dnb := 6#3 }) := by
  simp [decSymbol, h]

theorem decSymbol_six_held {s : State} (h : s.dnb = 6#3) (v : BitVec 6) :
    decSymbol v s = (some (s.dacc ++ v.extractLsb' 4 2),
      { s with dacc := (v.extractLsb' 0 4).setWidth 6, dnb := 4#3 }) := by
  simp [decSymbol, h, topByte_twelve, lowBits_temporary]

theorem decSymbol_four_held {s : State} (h : s.dnb = 4#3) (v : BitVec 6) :
    decSymbol v s = (some (s.dacc.extractLsb' 0 4 ++ v.extractLsb' 2 4),
      { s with dacc := (v.extractLsb' 0 2).setWidth 6, dnb := 2#3 }) := by
  simp [decSymbol, h, topByte_ten, lowBits_temporary]

theorem decSymbol_two_held {s : State} (h : s.dnb = 2#3) (v : BitVec 6) :
    decSymbol v s = (some (s.dacc.extractLsb' 0 2 ++ v), { s with dacc := 0#6, dnb := 0#3 }) := by
  simp [decSymbol, h, topByte_eight, lowBits_temporary]

/-- Settles O35: in `B64D` an item is one `DecStep`, by the class of the character and, for a symbol, by `DNB`. -/
theorem decoderTakesACharacter : Obligations.DecoderTakesACharacter := by
  unfold Obligations.DecoderTakesACharacter
  intro c s hrun hroom hop
  obtain ⟨_, hitem, _⟩ := item_of_opr c s
  rw [exec_push_of_room hrun hroom, hitem hop]
  refine ⟨fun hstop => ?_, fun hstop hc => ?_, fun hstop hpad hsym => ?_, fun v hstop hc => ?_⟩
  · rw [decStep_of_stopped hstop]
    rfl
  · rw [decStep_of_pad hstop ((cls_eq_pad_iff c).mpr hc)]
    rfl
  · rw [decStep_of_skip s (cls_eq_skip hpad hsym)]
    rfl
  · have hcls : cls c = .sym v := by rw [hc, cls_alpha]
    rw [decStep_of_sym hstop hcls]
    refine ⟨fun h0 => ?_, fun h6 => ?_, fun h4 => ?_, fun h2 => ?_⟩
    · rw [decSymbol_none_held h0]
      rfl
    · rw [decSymbol_six_held h6]
      rfl
    · rw [decSymbol_four_held h4]
      rfl
    · rw [decSymbol_two_held h2]
      rfl

end Sys2Proof.Machine
end

section
/-! The decoder function (41_base64_decoder.md R140, R141): its laws, and that the decoder's steps compute it (R147). -/

namespace Sys2Proof.Machine

/-! ### Only the symbols before the first `=` count (R141 b, c) -/

theorem symbols_append {x : List Byte} (h : 0x3D#8 ∉ x) (y : List Byte) :
    symbols (x ++ y) = symbols x ++ symbols y := by
  induction x with
  | nil => rfl
  | cons c x ih =>
    obtain ⟨hc, hx⟩ := not_or.mp (mt List.mem_cons.mpr h)
    rw [List.cons_append, symbols, symbols, ih hx]
    cases hcls : cls c with
    | sym v => rfl
    | pad => exact absurd ((cls_eq_pad_iff c).mp hcls).symm hc
    | skip => rfl

/-- The loop of R140, from any rolling buffer, sees the symbols alone. -/
theorem b64decFrom_symbols (t : List Byte) (acc n : Nat) :
    b64decFrom acc n t = b64decFrom acc n ((symbols t).map alpha) := by
  induction t generalizing acc n with
  | nil => rfl
  | cons c t ih =>
    rw [b64decFrom, symbols]
    cases cls c with
    | sym v => simp only [List.map_cons, b64decFrom, cls_alpha, ← ih]
    | pad => rfl
    | skip => exact ih acc n

/-! ### Whole groups of four symbols (R141 f) -/

/-- Any four symbols are the characters of one group. -/
theorem enc4_symbols (a b c d : BitVec 6) : enc4 (a ++ b ++ c ++ d) = [alpha a, alpha b, alpha c, alpha d] := by
  have ha : (a ++ b ++ c ++ d : BitVec 24).extractLsb' 18 6 = a :=
    (BitVec.extractLsb'_append_eq_of_le (by decide)).trans
      ((BitVec.extractLsb'_append_eq_of_le (by decide)).trans BitVec.extractLsb'_append_eq_left)
  have hb : (a ++ b ++ c ++ d : BitVec 24).extractLsb' 12 6 = b :=
    (BitVec.extractLsb'_append_eq_of_le (by decide)).trans
      ((BitVec.extractLsb'_append_eq_of_le (by decide)).trans BitVec.extractLsb'_append_eq_right)
  have hc : (a ++ b ++ c ++ d : BitVec 24).extractLsb' 6 6 = c :=
    (BitVec.extractLsb'_append_eq_of_le (by decide)).trans BitVec.extractLsb'_append_eq_right
  have hd : (a ++ b ++ c ++ d : BitVec 24).extractLsb' 0 6 = d := BitVec.extractLsb'_append_eq_right
  rw [enc4, ha, hb, hc, hd]

/-- Each group of four symbols gives its three bytes and leaves nothing held. -/
theorem b64dec_append_of_groups (t : List Byte) :
    ∀ vs : List (BitVec 6), vs.length % 4 = 0 → b64dec (vs.map alpha ++ t) = b64dec (vs.map alpha) ++ b64dec t
  | [], _ => rfl
  | [_], h | [_, _], h | [_, _, _], h => by simp at h
  | a :: b :: c :: d :: vs, h => by
    have hvs : vs.length % 4 = 0 := (Nat.add_mod_right vs.length 4).symm.trans h
    have hgroup : (a :: b :: c :: d :: vs).map alpha = enc4 (a ++ b ++ c ++ d) ++ vs.map alpha := by
      rw [enc4_symbols]
      rfl
    rw [hgroup, List.append_assoc, b64dec_enc4, b64dec_enc4, b64dec_append_of_groups t vs hvs]
    rfl

/-- R141 (f). -/
theorem b64dec_append {x : List Byte} (hpad : 0x3D#8 ∉ x) (h : (symbols x).length % 4 = 0) (y : List Byte) :
    b64dec (x ++ y) = b64dec x ++ b64dec y :=
  calc
    b64dec (x ++ y) = b64dec ((symbols x).map alpha ++ (symbols y).map alpha) := by
      rw [b64dec, b64decFrom_symbols, symbols_append hpad, List.map_append, b64dec]
    _ = b64dec ((symbols x).map alpha) ++ b64dec ((symbols y).map alpha) := b64dec_append_of_groups _ _ h
    _ = b64dec x ++ b64dec y := by simp only [b64dec, ← b64decFrom_symbols]

/-- Settles O47: the length is that of the closed form. -/
theorem decoderFunctionLaws : Obligations.DecoderFunctionLaws := by
  unfold Obligations.DecoderFunctionLaws
  refine ⟨fun t => ?_, fun t => b64decFrom_symbols t 0 0, fun x y hpad h => b64dec_append hpad h y⟩
  obtain ⟨hlength, _⟩ := decodedBitsAreTheSymbolBits t
  exact hlength

/-! ### The steps (R147) -/

/-- The steps return what the characters taken make, and leave the rest to the characters after them. -/
theorem decSteps_conserves (x y : List Byte) {s : State} (h : ResidueLegal s) :
    decodedFrom s (x ++ y) = (decSteps x s).1 ++ decodedFrom (decSteps x s).2 y := by
  induction x generalizing s with
  | nil => rfl
  | cons c x ih =>
    rw [List.cons_append, decStep_conserves h, ih (decStep_residueLegal c h), ← List.append_assoc, decSteps]

theorem decStep_dstop_iff (c : Byte) (s : State) :
    (decStep c s).2.dstop = true ↔ s.dstop = true ∨ c = 0x3D#8 := by
  rw [← cls_eq_pad_iff]
  rcases decStep_cases c s with ⟨hstop | hskip, hstep⟩ | ⟨_, hpad, hstep⟩ | ⟨v, _, hsym, hstep⟩
  · simp [hstep, hstop]
  · simp [hstep, hskip]
  · simp [hstep, hpad]
  · rcases decSymbol_cases v s with ⟨_, hdec⟩ | ⟨_, hdec⟩
    all_goals simp [hstep, hdec, hsym]

/-- The decoder has stopped exactly when it has met `=` (R142). -/
theorem decSteps_dstop_iff (x : List Byte) (s : State) :
    (decSteps x s).2.dstop = true ↔ s.dstop = true ∨ 0x3D#8 ∈ x := by
  induction x generalizing s with
  | nil => simp [decSteps]
  | cons c x ih => rw [decSteps, ih, decStep_dstop_iff, List.mem_cons, or_assoc, @eq_comm _ c]

theorem decSteps_of_stopped {s : State} (h : s.dstop = true) (t : List Byte) : decSteps t s = ([], s) := by
  induction t with
  | nil => rfl
  | cons c t ih => simp [decSteps, decStep_of_stopped h, ih]

theorem decodedFrom_of_running {s : State} (h : s.dstop = false) (t : List Byte) :
    decodedFrom s t = b64decFrom s.dacc.toNat s.dnb.toNat t := by
  simp [decodedFrom, h]

/-- Settles O54: a cleared decoder has all of `b64dec` before it, and a character passes on what it does not return. -/
theorem decoderStepsComputeTheFunction : Obligations.DecoderStepsComputeTheFunction := by
  unfold Obligations.DecoderStepsComputeTheFunction
  intro t s hstop hdacc hdnb
  have hres : ResidueLegal s := by simp [ResidueLegal, hdacc, hdnb]
  have hall : decodedFrom s t = b64dec t := by
    rw [decodedFrom_of_running hstop, hdacc, hdnb]
    rfl
  refine ⟨?_, fun x y ht hpad => ?_, fun x y _ hpad => ?_⟩
  · have hsteps := decSteps_conserves t [] hres
    rw [List.append_nil, decodedFrom_nil, List.append_nil, hall] at hsteps
    exact hsteps.symm
  · have hrunning : (decSteps x s).2.dstop = false := by
      simpa [hstop, hpad] using decSteps_dstop_iff x s
    rw [← hall, ht, decSteps_conserves x y hres, decodedFrom_of_running hrunning]
  · rw [decSteps_of_stopped ((decSteps_dstop_iff x s).mpr (.inr hpad))]

end Sys2Proof.Machine
end

section
/-! The XOR cipher (42_xor_cipher.md R162, R165, R168, R170): the keyed commands accepted, a byte taken, the laws of the
function, and the steps that compute it. -/

namespace Sys2Proof.Machine

/-! ### The commands (R162, R182, R183) -/

/-- Settles O18: a keyed command that has its key meets neither refusal of `CmdWrite`. -/
theorem keyedCommandsAreAccepted : Obligations.KeyedCommandsAreAccepted := by
  unfold Obligations.KeyedCommandsAreAccepted
  intro dk s hidle hkey
  have haccepted (op : Op) : startCommand op dk s = accept op dk s := startCommand_of_key hidle (.inr hkey)
  rw [exec_xort, exec_aenc, exec_adec, haccepted .xort, haccepted .aenc, haccepted .adec]
  exact ⟨rfl, rfl, rfl⟩

/-! ### A byte (R165, R186) -/

/-- Below the key's length, the step in terms of the effective key as a sequence (R32, R165). -/
theorem xorStep_of_lt {s : State} (h : s.kidx.toNat < (effectiveKey s.dkr s).length) (b : Byte) :
    xorStep b s = (b ^^^ (effectiveKey s.dkr s).getD s.kidx.toNat 0x00#8,
      { s with kidx := if s.kidx.toNat + 1 = (effectiveKey s.dkr s).length then 0x00#8 else s.kidx + 1#8 }) := by
  have hlen := length_effectiveKey s.dkr s
  rw [xorStep, ek_eq_getD s.dkr (hlen ▸ h), hlen]

/-- Settles O36: in `XORT` an item is one `XorStep` and the emission of its byte. -/
theorem cipherTakesAByte : Obligations.CipherTakesAByte := by
  unfold Obligations.CipherTakesAByte
  intro v s hrun hroom hop hidx
  obtain ⟨_, _, hitem, _⟩ := item_of_opr v s
  rw [exec_push_of_room hrun hroom, hitem hop, xorStep_of_lt hidx]
  rfl

/-! ### The laws of the cipher (R170) -/

theorem xort_of_ne_nil {k : List Byte} (h : k ≠ []) (bs : List Byte) : xort bs k = .seq (xortFrom k 0 bs) :=
  if_neg h

/-- R161 (a), from any position. -/
theorem length_xortFrom (k : List Byte) (i : Nat) (bs : List Byte) : (xortFrom k i bs).length = bs.length := by
  induction bs generalizing i with
  | nil => rfl
  | cons b bs ih => rw [xortFrom, List.length_cons, ih, List.length_cons]

/-- Both passes XOR a position with the same key byte, which cancels. -/
theorem xortFrom_xortFrom (k : List Byte) (i : Nat) (bs : List Byte) : xortFrom k i (xortFrom k i bs) = bs := by
  induction bs generalizing i with
  | nil => rfl
  | cons b bs ih => rw [xortFrom, xortFrom, ih, BitVec.xor_assoc, BitVec.xor_self, BitVec.xor_zero]

/-- Settles O50: a second pass cancels the first, and the empty key is refused first, whatever the input is (R160). -/
theorem cipherIsItsOwnInverse : Obligations.CipherIsItsOwnInverse := by
  unfold Obligations.CipherIsItsOwnInverse
  refine ⟨fun b k hk => ⟨xortFrom k 0 b, xort_of_ne_nil hk b, length_xortFrom k 0 b, ?_⟩, fun b => ?_⟩
  · rw [xort_of_ne_nil hk, xortFrom_xortFrom]
  · exact ⟨operation_emptyKey (op := .xort) rfl b, operation_emptyKey (op := .aenc) rfl b,
      operation_emptyKey (op := .adec) rfl b⟩

/-! ### The steps (R166, R168) -/

/-- The wrap of `KIDX` is counting modulo the key's length. -/
theorem toNat_xorStep_kidx {s : State} (h : s.kidx.toNat < eklen s.dkr s) (b : Byte) :
    (xorStep b s).2.kidx.toNat = (s.kidx.toNat + 1) % eklen s.dkr s := by
  have hle := eklen_le s.dkr s
  rcases xorStep_kidx b s with ⟨hwrap, hk⟩ | ⟨hstay, hk⟩
  · rw [hk, hwrap, Nat.mod_self]
    rfl
  · rw [hk, Nat.mod_eq_of_lt (by omega), BitVec.toNat_add]
    simp only [BitVec.toNat_ofNat]
    omega

/-- The steps return what the cipher makes of the bytes, from any `KIDX` below the key's length. -/
theorem xorSteps_conserves (bs : List Byte) {s : State} (h : s.kidx.toNat < eklen s.dkr s) :
    (xorSteps bs s).1 = cipheredFrom s bs := by
  induction bs generalizing s with
  | nil => rfl
  | cons b bs ih => rw [xorSteps, xorStep_conserves h, ih (xorStep_kidx_lt b h)]

/-- R166: `KIDX` counts the bytes modulo the key's length. -/
theorem toNat_xorSteps_kidx (bs : List Byte) {s : State} (h : s.kidx.toNat < eklen s.dkr s) :
    (xorSteps bs s).2.kidx.toNat = (s.kidx.toNat + bs.length) % eklen s.dkr s := by
  induction bs generalizing s with
  | nil => exact (Nat.mod_eq_of_lt h).symm
  | cons b bs ih =>
    have hkept : eklen (xorStep b s).2.dkr (xorStep b s).2 = eklen s.dkr s := rfl
    rw [xorSteps, ih (xorStep_kidx_lt b h), hkept, toNat_xorStep_kidx h, Nat.mod_add_mod, List.length_cons,
      Nat.add_assoc, Nat.add_comm 1]

/-- The cipher has no flush: the end of the input leaves `KIDX` where it is (R168). -/
theorem flush_kidx (s : State) : (flush s).kidx = s.kidx := by
  obtain ⟨e, o, h⟩ := flush_frame s
  rw [h]

/-- Settles O55: `KIDX = 0` is below the length of a non-empty key, and from there `cipheredFrom` is `xort`. -/
theorem cipherStepsComputeTheFunction : Obligations.CipherStepsComputeTheFunction := by
  unfold Obligations.CipherStepsComputeTheFunction
  intro bs s hzero hkey
  have hidx : s.kidx.toNat < eklen s.dkr s := by
    rw [hzero, ← length_effectiveKey]
    exact List.length_pos_of_ne_nil hkey
  have hall : cipheredFrom s bs = xortFrom (effectiveKey s.dkr s) 0 bs := by
    rw [cipheredFrom, hzero]
    rfl
  refine ⟨?_, ?_, flush_kidx, fun u hop => ?_⟩
  · rw [xort_of_ne_nil hkey, xorSteps_conserves bs hidx, hall]
  · rw [toNat_xorSteps_kidx bs hidx, hzero, length_effectiveKey]
    exact congrArg (· % _) (Nat.zero_add _)
  · obtain ⟨_, hkept⟩ := flush_of_opr u
    exact hkept (.inr (.inl hop))

end Sys2Proof.Machine
end

section
/-! One access to the controller (43_composition_controller.md R178 to R197): the command write with its tests, the input
writes without room, the output read, and that a busy block can always move. -/

namespace Sys2Proof.Machine

/-! ### The command write (R178, R179, R180) -/

theorem startCommand_of_busy {s : State} (hbusy : s.phase ≠ .idle) (op : Op) (dk : Bool) :
    startCommand op dk s = raiseProtocolError .p1 s := by
  rw [startCommand, if_pos ((busy_eq_true s).mpr hbusy)]

theorem commandWrite_of_busy {s : State} (hbusy : s.phase ≠ .idle) (c : Byte) :
    commandWrite c s = raiseProtocolError .p1 s := by
  rw [commandWrite, if_pos ((busy_eq_true s).mpr hbusy)]

/-- Settles O21: busy is the first test of a `CTRL` write and of `START`, before they look at the command. -/
theorem busyDropsEveryCommand : Obligations.BusyDropsEveryCommand := by
  unfold Obligations.BusyDropsEveryCommand
  intro s hbusy
  have hstart (op : Op) (dk : Bool) : exec (startInstr op dk) s = .next { s with perr := true } := by
    rw [exec_startInstr, startCommand_of_busy hbusy]
    rfl
  refine ⟨fun c => ?_, fun dk => ⟨hstart .b64e dk, hstart .b64d dk, hstart .xort dk, hstart .aenc dk, hstart .adec dk⟩⟩
  rw [exec_cmdw, commandWrite_of_busy hbusy]
  rfl

/-- Acceptance latches the command, clears the datapath and enters `RUN`, and changes nothing else (R180, R181). -/
theorem accept_eq (op : Op) (dk : Bool) (s : State) :
    accept op dk s = { s with
      phase := .run, opr := opCode op, dkr := dk, ebuf := 0#16, ecnt := 0#2, dacc := 0#6, dnb := 0#3,
      dstop := false, kidx := 0#8 } := rfl

/-- Settles O22, test by test: the reserved bytes are those that select no operation, and for the others the key check
reads the operation and `DK` off the byte. -/
theorem commandWriteTestsInOrder : Obligations.CommandWriteTestsInOrder := by
  unfold Obligations.CommandWriteTestsInOrder
  intro c s
  rw [exec_cmdw]
  congr 1
  by_cases hbusy : s.phase ≠ .idle
  · rw [if_pos hbusy, commandWrite_of_busy hbusy]
    rfl
  have hidle : s.phase = .idle := not_not.mp hbusy
  have hreserved := cmdOperation_eq_none_iff c
  simp only [cmdZero, cmdOp] at hreserved
  rw [if_neg hbusy]
  cases hop : cmdOperation c with
  | none =>
    rw [if_pos (hreserved.mp hop), commandWrite_of_reserved hop hidle]
    rfl
  | some op =>
    have hkeyed := keyed_iff_opCode op
    rw [opCode_of_cmdOperation hop] at hkeyed
    rw [if_neg (mt hreserved.mpr (by simp [hop])), commandWrite_of_cmdOperation hop, cmdDk]
    simp only [← hkeyed]
    by_cases hempty : keyed op = true ∧ c.getLsbD 3 = false ∧ s.klen = 0x00#8
    · obtain ⟨hk, hdk, hklen⟩ := hempty
      rw [if_pos ⟨hk, hdk, hklen⟩, hdk, startCommand_of_emptyKey hidle hk hklen]
      rfl
    · have hkey : keyed op = false ∨ c.getLsbD 3 = true ∨ s.klen ≠ 0x00#8 := by
        simpa only [not_and_or, Bool.not_eq_true, Bool.not_eq_false] using hempty
      rw [if_neg hempty, startCommand_of_key hidle hkey, accept_eq, opCode_of_cmdOperation hop]

/-- Settles O23: the `CTRL` write of a command's own byte is its `START`, which has its key. -/
theorem legalCommandWriteIsAccepted : Obligations.LegalCommandWriteIsAccepted := by
  unfold Obligations.LegalCommandWriteIsAccepted
  intro op dk s hidle hkey
  rw [exec_cmdw, commandWrite_of_cmdOperation (cmdOperation_cmdByte op dk), cmdDk_cmdByte,
    startCommand_of_key hidle hkey, accept_eq]

/-- Settles O25: the queue of an `IDLE` block is empty, so the accepted command has nothing to read and, with
`OQCAP >= 4`, room for input. -/
theorem acceptedCommandTakesInput : Obligations.AcceptedCommandTakesInput := by
  unfold Obligations.AcceptedCommandTakesInput
  intro op dk s h hidle hkey
  obtain ⟨hcfg, _, _, ⟨_, hempty, _⟩, _⟩ := h
  have hoq : (accept op dk s).oq = [] := hempty hidle
  have hroom : HasRoom (accept op dk s) := by simpa [HasRoom, hempty hidle] using hcfg
  obtain ⟨hbusy, hrdy, hvld, _⟩ := statusByte_bits (accept op dk s)
  refine ⟨accept op dk s, by rw [exec_startInstr, startCommand_of_key hidle hkey], ?_, ?_, ?_⟩
  · exact hbusy.trans ((busy_eq_true _).mpr (by simp))
  · exact hrdy.trans ((inRdy_iff _).mpr ⟨rfl, hroom⟩)
  · rw [hvld, outVld_eq_decide, hoq]
    rfl

/-! ### Input and output (R186, R190, R192, R197) -/

/-- Settles O40: without `IN_RDY` both writes take their other branch. -/
theorem inputIsRefusedWithoutRoom : Obligations.InputIsRefusedWithoutRoom := by
  unfold Obligations.InputIsRefusedWithoutRoom
  intro v s hroom
  have hrdy : ¬ inRdy s = true := mt (inRdy_iff s).mp hroom
  constructor
  · rw [exec_push, dinWrite, if_neg hrdy]
    rfl
  · rw [exec_fin, finWrite, if_neg hrdy]
    rfl

theorem doutRead_of_empty {s : State} (h : s.oq = []) : doutRead s = refuseRead .p6 s := by
  simp only [doutRead, h]

theorem doutRead_of_cons {s : State} {y : Byte} {rest : List Byte} (h : s.oq = y :: rest) :
    doutRead s = respond y (dropHead rest s) := by
  simp only [doutRead, h]

/-- Settles O41: the two cases of the queue, and that it is empty in `IDLE`. -/
theorem outputReadTakesTheHead : Obligations.OutputReadTakesTheHead := by
  unfold Obligations.OutputReadTakesTheHead
  have hrefused (d : Byte) (s : State) (hoq : s.oq = []) :
      exec (.pop d) s = .next { s with perr := true, rdata := some 0x00#8 } := by
    rw [exec_pop, doutRead_of_empty hoq]
    rfl
  refine ⟨fun d y rest s hoq => ?_, hrefused, fun d s h hidle => ?_⟩
  · rw [exec_pop, doutRead_of_cons hoq]
    rfl
  · obtain ⟨_, _, _, ⟨_, hempty, _⟩, _⟩ := h
    exact hrefused d s (hempty hidle)

/-- Settles O43: in `RUN` a queue without room holds an item, and in `DRAIN` the queue always does. -/
theorem aBusyBlockNeverDeadlocks : Obligations.ABusyBlockNeverDeadlocks := by
  unfold Obligations.ABusyBlockNeverDeadlocks
  intro s h
  have ⟨_, _, _, ⟨_, _, hdrain⟩, _⟩ := h
  rw [outVld_eq_decide, decide_eq_true_iff]
  refine ⟨fun hrun => ?_, hdrain⟩
  cases hrdy : inRdy s with
  | true => exact .inl rfl
  | false => exact .inr (oq_ne_nil_of_not_inRdy h hrun hrdy)

end Sys2Proof.Machine
end

section
/-! The two compositions (43_composition_controller.md R175 to R188): an item of `AENC` and of `ADEC`, and the round trip. -/

namespace Sys2Proof.Machine

/-! ### An item (R182, R183, R188) -/

/-- Settles O37: in `AENC` an item is one `XorStep` and then one `EncStep` on its byte; the cipher leaves the encoder's
registers and the queue as they were. -/
theorem autosaveEncodeTakesAByte : Obligations.AutosaveEncodeTakesAByte := by
  unfold Obligations.AutosaveEncodeTakesAByte
  intro v s hrun hroom hop hidx x k
  obtain ⟨_, _, _, hitem, _⟩ := item_of_opr v s
  have hexec : exec (.push v) s = .next (encStep x { s with kidx := k }) := by
    rw [exec_push_of_room hrun hroom, hitem hop, xorStep_of_lt hidx]
  rw [hexec]
  refine ⟨fun h0 => ?_, fun h1 => ?_, fun h2 => ?_⟩
  · exact congrArg _ (encStep_first (s := { s with kidx := k }) h0 x)
  · exact congrArg _ (encStep_second (s := { s with kidx := k }) h1 x)
  · exact congrArg _ (encStep_third (s := { s with kidx := k }) h2 x)

/-- A decoded byte leaves through the cipher under the key byte and the index of the state before the item: the decoder's
registers `a` and `n` are no part of the effective key (R183). -/
theorem cipherSome_decoded {s : State} (h : s.kidx.toNat < (effectiveKey s.dkr s).length) (a : BitVec 6) (n : BitVec 3)
    (b : Byte) :
    cipherSome (some b) { s with dacc := a, dnb := n } = { s with
      kidx := if s.kidx.toNat + 1 = (effectiveKey s.dkr s).length then 0x00#8 else s.kidx + 1#8
      oq := s.oq ++ [b ^^^ (effectiveKey s.dkr s).getD s.kidx.toNat 0x00#8], dacc := a, dnb := n } := by
  rw [cipherSome, xorStep_of_lt (s := { s with dacc := a, dnb := n }) h]
  rfl

/-- Settles O38: in `ADEC` an item is one `DecStep`, as in `B64D`, and the cipher on the byte it gives, if any. -/
theorem autosaveDecodeTakesACharacter : Obligations.AutosaveDecodeTakesACharacter := by
  unfold Obligations.AutosaveDecodeTakesACharacter
  intro c s hrun hroom hop hidx x k
  obtain ⟨_, _, _, _, hitem⟩ := item_of_opr c s
  rw [exec_push_of_room hrun hroom, hitem hop]
  refine ⟨fun hstop => ?_, fun hstop hc => ?_, fun hstop hpad hsym => ?_, fun v hstop hc => ?_⟩
  · rw [decStep_of_stopped hstop]
    rfl
  · rw [decStep_of_pad hstop ((cls_eq_pad_iff c).mpr hc)]
    rfl
  · rw [decStep_of_skip s (cls_eq_skip hpad hsym)]
    rfl
  · have hcls : cls c = .sym v := by rw [hc, cls_alpha]
    rw [decStep_of_sym hstop hcls]
    refine ⟨fun h0 => ?_, fun h6 => ?_, fun h4 => ?_, fun h2 => ?_⟩
    · rw [decSymbol_none_held h0]
      rfl
    · rw [decSymbol_six_held h6]
      exact congrArg _ (cipherSome_decoded hidx _ _ _)
    · rw [decSymbol_four_held h4]
      exact congrArg _ (cipherSome_decoded hidx _ _ _)
    · rw [decSymbol_two_held h2]
      exact congrArg _ (cipherSome_decoded hidx _ _ _)

/-! ### The functions (R175, R176, R177) -/

theorem aenc_of_ne_nil {k : List Byte} (h : k ≠ []) (p : List Byte) : aenc p k = .seq (b64enc (xortFrom k 0 p)) := by
  rw [aenc, if_neg h, xort_of_ne_nil h]

theorem adec_of_ne_nil {k : List Byte} (h : k ≠ []) (t : List Byte) : adec t k = .seq (xortFrom k 0 (b64dec t)) := by
  rw [adec, if_neg h, xort_of_ne_nil h]

/-- Settles O51: the decoder undoes the encoder and the second cipher pass the first. The other way round a line feed is
lost: it decodes to nothing, and nothing encodes to nothing (R152). -/
theorem autosaveRoundTrip : Obligations.AutosaveRoundTrip := by
  unfold Obligations.AutosaveRoundTrip
  refine ⟨fun b k hk => ⟨b64enc (xortFrom k 0 b), aenc_of_ne_nil hk b, ?_⟩, [0x0A#8], [0x00#8], [], ?_, ?_, ?_⟩
  · rw [adec_of_ne_nil hk, decodingUndoesEncoding, xortFrom_xortFrom]
  all_goals decide

end Sys2Proof.Machine
end

section
/-! The streaming equivalence (43_composition_controller.md R195): from any legal datapath, whatever the rest of the state
is, items and the flush emit all that is owed for them. -/

namespace Sys2Proof.Machine

/-- What the conservation of the owed items asks of the datapath: R45 (b), (c) and, for the keyed operations, (i). -/
structure DatapathLegal (s : State) : Prop where
  count : EncoderCountLegal s
  residue : ResidueLegal s
  index : s.opr = 3#3 ∨ s.opr = 4#3 ∨ s.opr = 5#3 → s.kidx.toNat < eklen s.dkr s

namespace DatapathLegal

theorem encStep {s : State} (h : DatapathLegal s) (x : Byte) : DatapathLegal (encStep x s) := by
  have hcount := encStep_encoderCountLegal x s
  obtain ⟨_, _, _, hstep⟩ := encStep_frame x s
  rw [hstep] at hcount ⊢
  exact ⟨hcount, h.residue, h.index⟩

theorem decStep {s : State} (h : DatapathLegal s) (c : Byte) : DatapathLegal (decStep c s).2 := by
  have hres := decStep_residueLegal c h.residue
  obtain ⟨_, _, _, hstep⟩ := decStep_frame c s
  rw [hstep] at hres ⊢
  exact ⟨h.count, hres, h.index⟩

theorem xorStep {s : State} (h : DatapathLegal s) (b : Byte) : DatapathLegal (xorStep b s).2 :=
  ⟨h.count, h.residue, fun hop => xorStep_kidx_lt b (h.index hop)⟩

theorem emit {s : State} (h : DatapathLegal s) (b : Byte) : DatapathLegal (emit b s) :=
  ⟨h.count, h.residue, h.index⟩

/-- An item is made of these steps, by the operation (R188). -/
theorem item {s : State} (h : DatapathLegal s) (v : Byte) : DatapathLegal (item v s) := by
  unfold Machine.item
  cases opOfCode s.opr with
  | none => exact h
  | some op =>
    cases op with
    | b64e => exact h.encStep v
    | xort => exact (h.xorStep v).emit _
    | aenc => exact (h.xorStep v).encStep _
    | b64d =>
      dsimp only
      cases (Machine.decStep v s).1 with
      | none => exact h.decStep v
      | some b => exact (h.decStep v).emit b
    | adec =>
      dsimp only
      cases (Machine.decStep v s).1 with
      | none => exact h.decStep v
      | some b => exact ((h.decStep v).xorStep b).emit _

/-- An item puts into the queue exactly what is no longer owed: `item_conserves` for a state of which only the datapath is
known, running or not. -/
theorem item_conserves {s : State} (h : DatapathLegal s) (v : Byte) (input : List Byte) :
    (Machine.item v s).oq ++ owed (Machine.item v s) input = s.oq ++ owed s (v :: input) := by
  have hkept := item_opr v s
  obtain ⟨hb64e, hb64d, hxort, haenc, hadec⟩ := owed_of_opr s (v :: input)
  obtain ⟨hb64e', hb64d', hxort', haenc', hadec'⟩ := owed_of_opr (Machine.item v s) input
  rcases opr_cases s.opr with hop | hop | hop | hop | hop | hop
  · obtain ⟨hitem, _⟩ := item_of_opr v s
    rw [hb64e hop, hb64e' (hkept.trans hop), hitem hop]
    exact encStep_conserves v input s
  · rw [hb64d hop, hb64d' (hkept.trans hop)]
    exact item_conserves_b64d hop h.residue v input
  · rw [hxort hop, hxort' (hkept.trans hop)]
    exact item_conserves_xort hop (h.index (.inl hop)) v input
  · rw [haenc hop, haenc' (hkept.trans hop)]
    exact item_conserves_aenc hop (h.index (.inr (.inl hop))) v input
  · rw [hadec hop, hadec' (hkept.trans hop)]
    exact item_conserves_adec hop h.residue (h.index (.inr (.inr hop))) v input
  · rw [item_of_opOfCode_none v hop]
    simp [owed, hop]

/-- Items and the flush put all that is owed for them into the queue. -/
theorem flush_items {s : State} (h : DatapathLegal s) (input : List Byte) :
    (flush (items input s)).oq = s.oq ++ owed s input := by
  induction input generalizing s with
  | nil => exact flush_conserves h.count
  | cons v vs ih => rw [items, ih (h.item v), h.item_conserves]

end DatapathLegal

/-- A datapath cleared for the latched operation is as acceptance leaves it (R181). -/
theorem accept_of_cleared {op : Op} {s : State} (hclear : DatapathCleared s) (hop : s.opr = opCode op) :
    accept op s.dkr s = { s with phase := .run } := by
  obtain ⟨hebuf, hecnt, hdacc, hdnb, hdstop, hkidx⟩ := hclear
  rw [accept_eq, ← hop, ← hebuf, ← hecnt, ← hdacc, ← hdnb, ← hdstop, ← hkidx]

/-- A cleared datapath is legal under every key the operation can run with (R45). -/
theorem datapathLegal_of_cleared {op : Op} {s : State} (hclear : DatapathCleared s) (hop : s.opr = opCode op)
    (hkey : keyed op = true → effectiveKey s.dkr s ≠ []) : DatapathLegal s := by
  obtain ⟨_, hecnt, hdacc, hdnb, _, hkidx⟩ := hclear
  refine ⟨.inl hecnt, ⟨.inl hdnb, by simp [hdacc, hdnb]⟩, fun hkeyed => ?_⟩
  rw [hop, ← keyed_iff_opCode] at hkeyed
  rw [hkidx, ← length_effectiveKey]
  exact List.length_pos_of_ne_nil (hkey hkeyed)

/-- Settles O56: items and the flush emit what a command just accepted owes, which is its function. -/
theorem streamingEqualsTheFunction : Obligations.StreamingEqualsTheFunction := by
  unfold Obligations.StreamingEqualsTheFunction
  intro op input s hclear hop hkey
  refine ⟨owed s input, ?_, (datapathLegal_of_cleared hclear hop hkey).flush_items input⟩
  rw [operation_eq_owed_accept op s.dkr input s hkey, accept_of_cleared hclear hop]
  rfl

end Sys2Proof.Machine
end

section
/-! The main correctness statement (43_composition_controller.md R196): whatever accesses a host makes, an accepted input
item enters what the command owes, a returned output item leaves it, and nothing else touches it. -/

namespace Sys2Proof.Machine

/-! ### The words of the two sides of R62 -/

theorem decodeAccess_of_isPush {w : BusWord} (h : isPush w = true) : decodeAccess w = .ok (.push (busD w)) := by
  obtain ⟨hwrite, haddr⟩ : busW w = true ∧ busA w = 0x003#9 := by simpa [isPush] using h
  simp [decodeAccess, decodeBus, decodeWrite, hwrite, haddr]

theorem issue_of_isPush {w : BusWord} (h : isPush w = true) (s : State) :
    issue w s = dinWrite (busD w) (beginAccess [] s) :=
  Host.Outcome.next.inj (issue_of_decodeAccess_ok (decodeAccess_of_isPush h) s).symm

/-- A word that runs as no command is the encoding of what it runs as. -/
theorem encode_of_decodeAccess {w : BusWord} {i : Instr} (h : decodeAccess w = .ok i)
    (hi : ∀ op dk, i ≠ startInstr op dk) : encode i = .bus w := by
  rcases decodeAccess_cases w with ⟨heq, _⟩ | ⟨op, _, _, heq⟩
  · exact encodeOfDecodeIsSame (.bus w) i (heq.symm.trans h)
  · exact absurd (Except.ok.inj (h.symm.trans heq)) (hi op _)

theorem isPush_of_decodeAccess {w : BusWord} {v : Byte} (h : decodeAccess w = .ok (.push v)) : isPush w = true := by
  have hword := encode_of_decodeAccess h fun op _ => by cases op <;> simp [startInstr]
  cases hword
  simp [isPush]

theorem isPop_of_decodeAccess {w : BusWord} {d : Byte} (h : decodeAccess w = .ok (.pop d)) : isPop w = true := by
  have hword := encode_of_decodeAccess h fun op _ => by cases op <;> simp [startInstr]
  cases hword
  simp [isPop]

/-! ### What is still to come out -/

/-- What a command still returns, `outs`, where its host still delivers `ins`: in `RUN` the queue and all that is owed for
`ins`; after the end of the input there is no `ins`, and only the queue is left. -/
def Returns (s : State) (ins outs : List Byte) : Prop :=
  if s.phase = .run then outs = s.oq ++ owed s ins else ins = [] ∧ outs = s.oq

theorem returns_of_run {s : State} (hrun : s.phase = .run) (ins outs : List Byte) :
    Returns s ins outs ↔ outs = s.oq ++ owed s ins := by
  rw [Returns, if_pos hrun]

theorem returns_of_not_run {s : State} (hrun : s.phase ≠ .run) (ins outs : List Byte) :
    Returns s ins outs ↔ ins = [] ∧ outs = s.oq := by
  rw [Returns, if_neg hrun]

/-- A completed command has returned everything (R45 e). -/
theorem returns_of_idle {s : State} (h : Inv s) (hidle : s.phase = .idle) : Returns s [] [] := by
  obtain ⟨_, _, _, ⟨_, hempty, _⟩, _⟩ := h
  rw [returns_of_not_run (by simp [hidle]), hempty hidle]
  exact ⟨rfl, rfl⟩

/-- A `DOUT` read takes the head of the queue, or is refused and takes nothing. -/
theorem returns_doutRead {s : State} {ins outs : List Byte} (h : Returns (doutRead s) ins outs) :
    Returns s ins (s.oq.take 1 ++ outs) := by
  cases hoq : s.oq with
  | nil =>
    rw [doutRead_of_empty hoq] at h
    exact h
  | cons y rest =>
    rw [doutRead_of_cons hoq] at h
    by_cases hrun : s.phase = .run
    · have hrun' : (respond y (dropHead rest s)).phase = .run := by simp [hrun]
      obtain rfl := (returns_of_run hrun' ins outs).mp h
      rw [returns_of_run hrun, hoq]
      rfl
    · have hrun' : (respond y (dropHead rest s)).phase ≠ .run := by
        rw [respond_phase, dropHead_phase]
        split
        · simp
        · exact hrun
      obtain ⟨rfl, rfl⟩ := (returns_of_not_run hrun' ins outs).mp h
      rw [returns_of_not_run hrun, hoq]
      exact ⟨rfl, rfl⟩

/-- A `DIN` write brings its item into what is owed, or is refused and brings nothing. -/
theorem returns_dinWrite {s : State} (hinv : Inv s) {v : Byte} {ins outs : List Byte}
    (h : Returns (dinWrite v s) ins outs) : Returns s ((if inRdy s then [v] else []) ++ ins) outs := by
  cases hrdy : inRdy s with
  | false =>
    rw [dinWrite, hrdy] at h
    exact h
  | true =>
    obtain ⟨hrun, _⟩ := (inRdy_iff s).mp hrdy
    obtain ⟨_, _, _, _, _, _, _, hitem⟩ := item_frame v s
    have hrun' : (item v s).phase = .run := by rw [hitem]; exact hrun
    rw [dinWrite, hrdy, if_pos rfl, returns_of_run hrun'] at h
    rw [returns_of_run hrun, h]
    exact item_conserves hinv hrun v ins

/-- The end of the input leaves all that was owed in the queue. -/
theorem returns_endInput {s : State} (hinv : Inv s) (hrun : s.phase = .run) {ins outs : List Byte}
    (h : Returns (endInput (flush s)) ins outs) : Returns s ins outs := by
  obtain ⟨_, hcount, _⟩ := hinv
  have hrun' : (endInput (flush s)).phase ≠ .run := by
    rw [endInput_phase]
    split <;> simp
  obtain ⟨rfl, rfl⟩ := (returns_of_not_run hrun' ins outs).mp h
  rw [returns_of_run hrun]
  exact flush_conserves hcount

/-- The accesses of a busy block that are neither side of R62 leave what comes out as it is: they end the input, or touch
the flags and the returned byte only. -/
theorem returns_of_outcome {d : Except Reject Instr} {s t : State} (ho : AccessOutcome d s t) (hinv : Inv s)
    (hbusy : s.phase ≠ .idle) (hpush : ∀ v, d ≠ .ok (.push v)) (hpop : ∀ r, d ≠ .ok (.pop r)) {ins outs : List Byte}
    (h : Returns t ins outs) : Returns s ins outs := by
  cases ho with
  | answered | refused | failed | acknowledged => exact h
  | accepted _ _ hidle | keyLengthSet _ hidle | keyByteSet _ _ hidle => exact absurd hidle hbusy
  | itemTaken v hd => exact absurd hd (hpush v)
  | inputEnded _ _ hrun => exact returns_endInput hinv hrun h
  | itemReturned r _ _ hd => exact absurd hd (hpop r)

/-! ### An access and a run of accesses -/

/-- One access of a busy block: what it delivers is input, what it returns is output, and the rest is still to come. -/
theorem returns_of_issue {s : State} (hinv : Inv s) (hbusy : s.phase ≠ .idle) (w : BusWord) {ins outs : List Byte}
    (h : Returns (issue w s) ins outs) : Returns s (acceptedInput w s ++ ins) (returnedOutput w s ++ outs) := by
  rw [returnedOutput_eq, acceptedInput]
  cases hpop : isPop w with
  | true =>
    have hpush : isPush w = false := by
      obtain ⟨hread, _⟩ : busW w = false ∧ busA w = 0x004#9 := by simpa [isPop] using hpop
      simp [isPush, hread]
    rw [issue_of_isPop hpop] at h
    rw [hpush]
    exact returns_doutRead (s := beginAccess [] s) h
  | false =>
    cases hpush : isPush w with
    | true =>
      rw [issue_of_isPush hpush] at h
      exact returns_dinWrite (s := beginAccess [] s) hinv h
    | false =>
      have ho := step_outcome rfl (step_eq_issue w s)
      refine returns_of_outcome (s := beginAccess [] s) ho hinv hbusy (fun v hd => ?_) (fun r hd => ?_) h
      · simp [isPush_of_decodeAccess hd] at hpush
      · simp [isPop_of_decodeAccess hd] at hpop

/-- A command observed to its end has returned what it had to for what it was given. -/
theorem returns_of_observe (ws : List BusWord) {s : State} (hinv : Inv s) (hbusy : s.phase ≠ .idle)
    {ins outs : List Byte} (h : observe ws s = some (ins, outs)) : Returns s ins outs := by
  induction ws generalizing s ins outs with
  | nil => cases h
  | cons w ws ih =>
    have hinv' := issue_inv hinv w
    rw [observe] at h
    cases hb : busy (issue w s) with
    | true =>
      rw [hb, if_pos rfl] at h
      cases hrest : observe ws (issue w s) with
      | none =>
        rw [hrest] at h
        cases h
      | some carried =>
        obtain ⟨ins', outs'⟩ := carried
        rw [hrest] at h
        cases h
        exact returns_of_issue hinv hbusy w (ih hinv' ((busy_eq_true _).mp hb) hrest)
    | false =>
      rw [hb] at h
      simp only [Bool.false_eq_true, if_false] at h
      split at h
      · cases h
        simpa using returns_of_issue hinv hbusy w (returns_of_idle hinv' ((busy_eq_false _).mp hb))
      · cases h

/-! ### The command -/

theorem effectiveKey_eq_nil_iff (dk : Bool) (s : State) : effectiveKey dk s = [] ↔ dk = false ∧ s.klen = 0x00#8 := by
  rw [← List.length_eq_zero_iff, length_effectiveKey]
  cases dk with
  | true => simp [eklen]
  | false => simp [eklen, ← BitVec.toNat_inj]

/-- Settles O57: the empty key stops the command at the write; otherwise it is accepted, owes its function of the input,
and has returned that when it completes. -/
theorem commandComputesItsFunction : Obligations.CommandComputesItsFunction := by
  unfold Obligations.CommandComputesItsFunction
  intro s op dk hinv hidle
  rw [issue_startWord]
  refine ⟨fun hkeyed hempty => ?_, fun hkey ws ins outs hobs => ?_⟩
  · obtain ⟨rfl, hklen⟩ := (effectiveKey_eq_nil_iff dk s).mp hempty
    rw [startCommand_of_emptyKey (s := beginAccess [] s) hidle hkeyed hklen]
    rfl
  · have hhas : keyed op = false ∨ dk = true ∨ s.klen ≠ 0x00#8 := by
      simpa only [ne_eq, effectiveKey_eq_nil_iff, not_and_or, Bool.not_eq_false] using hkey
    rw [startCommand_of_key (s := beginAccess [] s) hidle hhas] at hobs
    have hreturns := returns_of_observe ws (accept_inv (s := beginAccess [] s) hinv hidle hhas) (by simp) hobs
    obtain ⟨_, _, _, ⟨_, hqueue, _⟩, _⟩ := hinv
    have hnonempty : keyed op = true → effectiveKey dk (beginAccess [] s) ≠ [] :=
      fun hkeyed => hkey.resolve_left (by simp [hkeyed])
    rw [returns_of_run rfl, accept_oq, beginAccess_oq, hqueue hidle, List.nil_append] at hreturns
    rw [hreturns]
    exact operation_eq_owed_accept op dk ins (beginAccess [] s) hnonempty

end Sys2Proof.Machine
end

section
/-! The empty key (00_scope.md R15, 42_xor_cipher.md R163, R212): what a keyed command does without one, and the commands
that need none. -/

namespace Sys2Proof.Machine

/-- Settles O19: each of the three reaches the key check and fails it. -/
theorem emptyKeySetsInvalidArgumentOnly : Obligations.EmptyKeySetsInvalidArgumentOnly := by
  unfold Obligations.EmptyKeySetsInvalidArgumentOnly
  intro s hidle hklen
  have hfailed {op : Op} (hkeyed : keyed op = true) : startCommand op false s = raiseInvalidArgument s :=
    startCommand_of_emptyKey hidle hkeyed hklen
  rw [exec_xort, exec_aenc, exec_adec, hfailed (op := .xort) rfl, hfailed (op := .aenc) rfl, hfailed (op := .adec) rfl]
  exact ⟨rfl, rfl, rfl, (busy_eq_false _).mpr hidle⟩

/-- The bytes `0x09` to `0x0D` are the five commands with `DK` set (R99). -/
theorem eq_cmdByte_true_of_range {c : Byte} (hlo : 0x09#8 ≤ c) (hhi : c ≤ 0x0D#8) : ∃ op, c = cmdByte op true := by
  have hcases : c = 0x09#8 ∨ c = 0x0A#8 ∨ c = 0x0B#8 ∨ c = 0x0C#8 ∨ c = 0x0D#8 := by bv_omega
  rcases hcases with rfl | rfl | rfl | rfl | rfl
  exacts [⟨.b64e, rfl⟩, ⟨.b64d, rfl⟩, ⟨.xort, rfl⟩, ⟨.aenc, rfl⟩, ⟨.adec, rfl⟩]

/-- Settles O26: at the function level the three operations test the key first; at the transaction level the bytes named
are those of the keyed commands with `DK` clear, and those of the commands that need no key. -/
theorem emptyKeyFailsAtBothLevels : Obligations.EmptyKeyFailsAtBothLevels := by
  unfold Obligations.EmptyKeyFailsAtBothLevels
  refine ⟨fun b => ⟨operation_emptyKey (op := .xort) rfl b, operation_emptyKey (op := .aenc) rfl b,
    operation_emptyKey (op := .adec) rfl b⟩, fun s hidle hklen => ⟨fun c hc => ?_, fun c hc => ?_⟩⟩
  · obtain ⟨op, hkeyed, rfl⟩ : ∃ op, keyed op = true ∧ c = cmdByte op false := by
      rcases hc with rfl | rfl | rfl
      exacts [⟨.xort, rfl, rfl⟩, ⟨.aenc, rfl, rfl⟩, ⟨.adec, rfl, rfl⟩]
    rw [exec_cmdw, commandWrite_of_cmdOperation (cmdOperation_cmdByte op false), cmdDk_cmdByte,
      startCommand_of_emptyKey hidle hkeyed hklen]
    exact ⟨rfl, (busy_eq_false _).mpr hidle⟩
  · obtain ⟨op, dk, hkey, rfl⟩ : ∃ op dk, (keyed op = false ∨ dk = true) ∧ c = cmdByte op dk := by
      rcases hc with rfl | rfl | ⟨hlo, hhi⟩
      · exact ⟨.b64e, false, .inl rfl, rfl⟩
      · exact ⟨.b64d, false, .inl rfl, rfl⟩
      · obtain ⟨op, hc⟩ := eq_cmdByte_true_of_range hlo hhi
        exact ⟨op, true, .inr rfl, hc⟩
    exact ⟨_, legalCommandWriteIsAccepted op dk s hidle (hkey.imp_right .inl), rfl, (cmdOp_cmdByte op dk).symm, rfl⟩

end Sys2Proof.Machine
end

section
/-! Which accesses raise `ProtocolError` and `InvalidArgument` (10_state.md R34, R210, R212, R216): said once for every
instruction, then for the words of the host. -/

namespace Sys2Proof.Machine

/-! ### The two conditions, by instruction -/

/-- Does the instruction read, so that a byte is returned even where it is refused (R93, R216)? -/
def readsByte : Instr → Bool
  | .ctrlr _ | .statr _ | .klenr _ | .pop _ | .keyr _ _ => true
  | .b64e _ | .b64d _ | .xort _ | .aenc _ | .adec _ | .cmdw _ | .stclr _ | .klenw _ | .push _ | .fin _
  | .keyw _ _ => false

/-- The causes P1 to P6 of R216, by row. -/
def RefusedIn (s : State) : Instr → Prop
  | .b64e _ | .b64d _ | .xort _ | .aenc _ | .adec _ => s.phase ≠ .idle
  | .cmdw c => s.phase ≠ .idle ∨ s.phase = .idle ∧ cmdOperation c = none
  | .klenw _ | .keyw _ _ => s.phase ≠ .idle
  | .push _ | .fin _ => ¬ (s.phase = .run ∧ HasRoom s)
  | .pop _ => s.oq = []
  | .ctrlr _ | .statr _ | .stclr _ | .klenr _ | .keyr _ _ => False

/-- The effect of R216 on a write or on a read. -/
def refusal (read : Bool) (s : State) : State :=
  { s with perr := true, rdata := if read then some 0x00#8 else s.rdata }

/-- What an instruction does to the two sticky flags: it is refused, it fails on the empty key, or it sets neither. -/
inductive Raises (i : Instr) (s : State) : State → Prop
  | protocolError (hcause : RefusedIn s i) : Raises i s (refusal (readsByte i) s)
  | invalidArgument (op : Op) (hkeyed : keyed op = true) (hidle : s.phase = .idle) (hklen : s.klen = 0x00#8)
      (hi : i = startInstr op false ∨ ∃ c, i = .cmdw c ∧ cmdOperation c = some op) (hnone : ¬ RefusedIn s i) :
      Raises i s (raiseInvalidArgument s)
  | neither {t : State} (hnone : ¬ RefusedIn s i) (hia : s.ia = false → t.ia = false)
      (hperr : s.perr = false → t.perr = false) : Raises i s t

theorem refusedIn_startInstr (s : State) (op : Op) (dk : Bool) :
    RefusedIn s (startInstr op dk) ↔ s.phase ≠ .idle := by
  cases op <;> rfl

theorem readsByte_startInstr (op : Op) (dk : Bool) : readsByte (startInstr op dk) = false := by
  cases op <;> rfl

theorem item_flags (v : Byte) (s : State) : (item v s).ia = s.ia ∧ (item v s).perr = s.perr := by
  obtain ⟨_, _, _, _, _, _, _, hitem⟩ := item_frame v s
  rw [hitem]
  exact ⟨rfl, rfl⟩

theorem flush_flags (s : State) : (flush s).ia = s.ia ∧ (flush s).perr = s.perr := by
  obtain ⟨_, _, hflush⟩ := flush_frame s
  rw [hflush]
  exact ⟨rfl, rfl⟩

/-- An instruction that no cause refuses and that leaves both flags alone. -/
theorem Raises.of_kept {i : Instr} {s t : State} (hnone : ¬ RefusedIn s i) (hia : t.ia = s.ia)
    (hperr : t.perr = s.perr) : Raises i s t :=
  .neither hnone hia.trans hperr.trans

theorem startCommand_raises {i : Instr} (op : Op) (dk : Bool) (s : State) (hi : i = startInstr op dk) :
    Raises i s (startCommand op dk s) := by
  subst hi
  have hcause := refusedIn_startInstr s op dk
  rcases startCommand_cases op dk s with ⟨hbusy, h⟩ | ⟨hidle, hkeyed, rfl, hklen, h⟩ | ⟨hidle, _, h⟩
  · have hraised := Raises.protocolError (hcause.mpr hbusy)
    rw [readsByte_startInstr] at hraised
    rwa [h]
  · rw [h]
    exact .invalidArgument op hkeyed hidle hklen (.inl rfl) fun hr => hcause.mp hr hidle
  · rw [h]
    exact .of_kept (fun hr => hcause.mp hr hidle) rfl rfl

theorem commandWrite_raises (c : Byte) (s : State) : Raises (.cmdw c) s (commandWrite c s) := by
  rcases commandWrite_cases c s with ⟨hbusy, h⟩ | ⟨hidle, hnone, h⟩ | ⟨op, hidle, hop, h⟩
  · rw [h]
    exact .protocolError (.inl hbusy)
  · rw [h]
    exact .protocolError (.inr ⟨hidle, hnone⟩)
  · have hlegal : ¬ RefusedIn s (.cmdw c) := by simp [RefusedIn, hidle, hop]
    rcases startCommand_cases op (cmdDk c) s with ⟨hbusy, _⟩ | ⟨_, hkeyed, _, hklen, h'⟩ | ⟨_, _, h'⟩
    · exact absurd hidle hbusy
    · rw [h, h']
      exact .invalidArgument op hkeyed hidle hklen (.inr ⟨c, rfl, hop⟩) hlegal
    · rw [h, h']
      exact .of_kept hlegal rfl rfl

/-- The writes of the key registers, which only `IDLE` takes. -/
theorem idleWrite_raises {i : Instr} {s t : State} (hi : RefusedIn s i ↔ s.phase ≠ .idle) (hread : readsByte i = false)
    (hia : t.ia = s.ia) (hperr : t.perr = s.perr) :
    Raises i s (if busy s then raiseProtocolError .p3 s else t) := by
  by_cases hidle : s.phase = .idle
  · rw [idleWrite_of_idle hidle]
    exact .of_kept (fun hr => hi.mp hr hidle) hia hperr
  · have hraised := Raises.protocolError (hi.mpr hidle)
    rw [hread] at hraised
    rwa [idleWrite_of_busy hidle]

theorem dinWrite_raises (v : Byte) (s : State) : Raises (.push v) s (dinWrite v s) := by
  obtain ⟨hia, hperr⟩ := item_flags v s
  unfold dinWrite
  split
  · next hrdy => exact .of_kept (not_not.mpr ((inRdy_iff s).mp hrdy)) hia hperr
  · next hrdy => exact .protocolError (mt (inRdy_iff s).mpr hrdy)

theorem finWrite_raises (x : Byte) (s : State) : Raises (.fin x) s (finWrite x s) := by
  obtain ⟨hia, hperr⟩ := flush_flags s
  unfold finWrite
  split
  · next hrdy => exact .of_kept (not_not.mpr ((inRdy_iff s).mp hrdy)) hia hperr
  · next hrdy => exact .protocolError (mt (inRdy_iff s).mpr hrdy)

theorem doutRead_raises (d : Byte) (s : State) : Raises (.pop d) s (doutRead s) := by
  cases hoq : s.oq with
  | nil =>
    rw [doutRead_of_empty hoq]
    exact .protocolError hoq
  | cons y rest =>
    rw [doutRead_of_cons hoq]
    exact .of_kept (by simp [RefusedIn, hoq]) rfl rfl

/-- A `STATUS` write clears flags and sets none (R38). -/
theorem acknowledge_raises (m : Byte) (s : State) : Raises (.stclr m) s (acknowledge m s) :=
  .neither id (by simp +contextual) (by simp +contextual)

theorem exec_raises {i : Instr} {s t : State} (h : exec i s = .next t) : Raises i s t := by
  cases i with
  | b64e dk | b64d dk | xort dk | aenc dk | adec dk => cases h; exact startCommand_raises _ dk s rfl
  | cmdw c => cases h; exact commandWrite_raises c s
  | ctrlr | statr | klenr | keyr => cases h; exact .of_kept id rfl rfl
  | stclr m => cases h; exact acknowledge_raises m s
  | klenw | keyw => cases h; exact idleWrite_raises .rfl rfl rfl rfl
  | push v => cases h; exact dinWrite_raises v s
  | pop d => cases h; exact doutRead_raises d s
  | fin x => cases h; exact finWrite_raises x s

/-! ### `InvalidArgument` (R210) -/

theorem refuseAccess_ia (r : Reject) (s : State) : (refuseAccess r s).ia = s.ia := by
  cases r <;> rfl

/-- A word that runs as a command is its `START` word (R103). -/
theorem eq_startWord_of_decodeAccess {w : BusWord} {op : Op} {dk : Bool}
    (h : decodeAccess w = .ok (startInstr op dk)) : w = startWord op dk := by
  obtain ⟨hw, ha, hop, hdk⟩ := decodeAccess_startInstr h
  have hbyte := (cmdOperation_eq_some_iff (busD w) op).mp hop
  rw [← wr_fields hw, ha, ← hbyte, hdk, startWord]

/-- Settles O20: holding, reset and a refused word leave `IA` clear, and of the instructions only a keyed command on the
empty key does. -/
theorem nothingElseSetsInvalidArgument : Obligations.NothingElseSetsInvalidArgument := by
  unfold Obligations.NothingElseSetsInvalidArgument
  intro s t hstep hclear hset
  have hnotkept : t.ia ≠ s.ia := by simp [hclear, hset]
  rcases step_cases hstep with ⟨_, rfl⟩ | ⟨rest, _, rfl⟩ | ⟨w, rest, i, hhost, hdec, hexec⟩ | ⟨w, rest, r, _, _, rfl⟩
  · exact absurd rfl hnotkept
  · cases hset
  · cases exec_raises hexec with
    | protocolError => exact absurd rfl hnotkept
    | neither _ hia => exact absurd ((hia hclear).trans hclear.symm) hnotkept
    | invalidArgument op hkeyed hidle hklen hi =>
      have hcommand : decodeAccess w = .ok (startInstr op false) :=
        decodeAccess_of_accepted
          (hi.imp (fun h => hdec.trans (congrArg _ h)) fun ⟨c, h, hop⟩ => ⟨c, hdec.trans (congrArg _ h), hop⟩)
      rw [eq_startWord_of_decodeAccess hcommand] at hhost
      exact ⟨op, rest, hkeyed, hhost, hidle, hklen, rfl⟩
  · exact absurd (refuseAccess_ia r _) hnotkept

/-! ### `ProtocolError` (R216) -/

/-- The list of causes of R216, on the access word. -/
def ListedCause (w : BusWord) (s : State) : Prop :=
  (busW w = true ∧ busA w = 0x000#9 ∧ s.phase ≠ .idle) ∨
  (busW w = true ∧ busA w = 0x000#9 ∧ s.phase = .idle ∧ decodeCmd (busD w) = .error .reservedCommand) ∨
  (busW w = true ∧ (busA w = 0x002#9 ∨ (busA w).getLsbD 8 = true) ∧ s.phase ≠ .idle) ∨
  (busW w = true ∧ busA w = 0x003#9 ∧ ¬ (s.phase = .run ∧ HasRoom s)) ∨
  (busW w = true ∧ busA w = 0x005#9 ∧ ¬ (s.phase = .run ∧ HasRoom s)) ∨
  (busW w = false ∧ busA w = 0x004#9 ∧ s.oq = []) ∨
  (busW w = false ∧ (busA w = 0x003#9 ∨ busA w = 0x005#9)) ∨
  (busW w = true ∧ busA w = 0x004#9) ∨
  (0x006#9 ≤ busA w ∧ busA w ≤ 0x0FF#9)

theorem step_of_decodeBus_ok {s : State} {w : BusWord} {rest : List HostEvent} {i : Instr}
    (hhost : s.host = .access w :: rest) (hdec : decodeBus w = .ok i) : step s = exec i (beginAccess rest s) := by
  obtain ⟨j, haccess, hj⟩ := exec_of_decodeBus hdec
  rw [step_of_decodeAccess_ok hhost haccess, hj]

theorem step_of_decodeBus_error {s : State} {w : BusWord} {rest : List HostEvent} {r : Reject}
    (hhost : s.host = .access w :: rest) (hdec : decodeBus w = .error r) :
    step s = .next (refuseAccess r (beginAccess rest s)) :=
  step_of_decodeAccess_error hhost (by rw [decodeAccess, hdec])

/-- An address below the key store is one of the six registers or reserved (R40 to R44). -/
theorem address_below_keyStore {a : Addr} (h : ¬ a.getLsbD 8 = true) :
    a = 0x000#9 ∨ a = 0x001#9 ∨ a = 0x002#9 ∨ a = 0x003#9 ∨ a = 0x004#9 ∨ a = 0x005#9 ∨
      (0x006#9 ≤ a ∧ a ≤ 0x0FF#9) := by
  have hmsb : a.msb = false := by simpa [BitVec.msb_eq_getLsbD_last] using h
  have hlt := BitVec.msb_eq_false_iff_two_mul_lt.mp hmsb
  bv_omega

theorem lt_keyAddr {a : Addr} (h : a ≤ 0x0FF#9) (i : Byte) : a < keyAddr i := by
  have hmsb : (keyAddr i).msb = true := by rw [BitVec.msb_eq_getLsbD_last, keyAddr_bit8]
  have hle := BitVec.msb_eq_true_iff_two_mul_ge.mp hmsb
  bv_omega

theorem keyAddr_ne {a : Addr} (h : a ≤ 0x0FF#9) (i : Byte) : keyAddr i ≠ a := by
  rintro rfl
  exact BitVec.lt_irrefl _ (lt_keyAddr h i)

theorem decodeWrite_error {a : Addr} {v : Byte} {r : Reject} (h : decodeWrite a v = .error r) :
    r = .refusedWrite ∧ (a = 0x004#9 ∨ (0x006#9 ≤ a ∧ a ≤ 0x0FF#9)) := by
  unfold decodeWrite at h
  split_ifs at h with hbit h0 h1 h2 h3 h5
  cases h
  exact ⟨rfl, by simpa only [h0, h1, h2, h3, h5, false_or] using address_below_keyStore hbit⟩

theorem decodeRead_error {a : Addr} {d : Byte} {r : Reject} (h : decodeRead a d = .error r) :
    r = .refusedRead ∧ (a = 0x003#9 ∨ a = 0x005#9 ∨ (0x006#9 ≤ a ∧ a ≤ 0x0FF#9)) := by
  unfold decodeRead at h
  split_ifs at h with hbit h0 h1 h2 h4
  cases h
  exact ⟨rfl, by simpa only [h0, h1, h2, h4, false_or] using address_below_keyStore hbit⟩

/-- Cause P7: a word of no row is under the last three causes of the list, and is refused as its direction says. -/
theorem refuseAccess_of_decodeBus_error {w : BusWord} {r : Reject} (h : decodeBus w = .error r) (s : State) :
    ListedCause w s ∧ refuseAccess r s = refusal (!busW w) s := by
  unfold decodeBus at h
  cases hw : busW w with
  | true =>
    obtain ⟨rfl, haddr⟩ := decodeWrite_error (by simpa [hw] using h)
    exact ⟨by simp [ListedCause, hw, haddr], rfl⟩
  | false =>
    obtain ⟨rfl, haddr⟩ := decodeRead_error (by simpa [hw] using h)
    exact ⟨by simpa [ListedCause, hw, or_assoc] using .inr haddr, rfl⟩

/-- A word of a row is refused under the causes the list gives for that row. -/
theorem refusedIn_iff_listedCause {w : BusWord} {i : Instr} (h : decodeBus w = .ok i) (s : State) :
    RefusedIn s i ↔ ListedCause w s := by
  have hword := encodeOfDecodeIsSame (.bus w) i h
  cases i with
  | b64e | b64d | xort | aenc | adec => cases hword
  | keyr k | keyw k =>
    cases hword
    have habove := lt_keyAddr (a := 0x0FF#9) (by decide) k
    simp [RefusedIn, ListedCause, keyAddr_ne, habove]
  | _ =>
    cases hword
    simp [RefusedIn, ListedCause, decodeCmd_eq_error_iff]

theorem busW_of_decodeBus {w : BusWord} {i : Instr} (h : decodeBus w = .ok i) : busW w = !readsByte i := by
  have hword := encodeOfDecodeIsSame (.bus w) i h
  cases i with
  | b64e | b64d | xort | aenc | adec => cases hword
  | _ => cases hword; simp [readsByte]

/-- Settles O32: a word of no row meets the list and is refused; of the rows exactly those instructions are refused that
the list names. -/
theorem refusalsAreExactlyTheListedCauses : Obligations.RefusalsAreExactlyTheListedCauses := by
  unfold Obligations.RefusalsAreExactlyTheListedCauses
  intro s t w rest hhost hstep
  have heffect : ({ s with host := rest, perr := true, rdata := if busW w then none else some 0x00#8 } : State) =
      refusal (!busW w) (beginAccess rest s) := by
    cases busW w <;> rfl
  rw [heffect]
  change (ListedCause w (beginAccess rest s) → _) ∧ (¬ ListedCause w (beginAccess rest s) → _)
  cases hdec : decodeBus w with
  | error r =>
    obtain ⟨hcause, hrefused⟩ := refuseAccess_of_decodeBus_error hdec (beginAccess rest s)
    rw [step_of_decodeBus_error hhost hdec, hrefused] at hstep
    cases hstep
    exact ⟨fun _ => rfl, fun hnone => absurd hcause hnone⟩
  | ok i =>
    rw [step_of_decodeBus_ok hhost hdec] at hstep
    rw [← refusedIn_iff_listedCause hdec, busW_of_decodeBus hdec, Bool.not_not]
    cases exec_raises hstep with
    | protocolError hcause => exact ⟨fun _ => rfl, fun hnone => absurd hcause hnone⟩
    | invalidArgument _ _ _ _ _ hnone => exact ⟨fun hcause => absurd hcause hnone, fun _ => id⟩
    | neither hnone _ hperr =>
      exact ⟨fun hcause => absurd hcause hnone, fun _ => hperr⟩

end Sys2Proof.Machine
end

section
/-! Reset (70_reset_and_hazards.md R240, R241): the state it leaves, and what the host reads there and may do next. -/

namespace Sys2Proof.Machine

/-! ### What the host reads after a reset (R37, R38, R43)

Stated for the reset of any state, since the parameters, which `STATUS` also depends on, survive it. -/

/-- Reset lists no key byte, so each reads as an unlisted one (R46). -/
@[simp] theorem readKey_hardReset (i : Byte) (s : State) : readKey i (hardReset s) = 0x00#8 := rfl

@[simp] theorem ctrlByte_hardReset (s : State) : ctrlByte (hardReset s) = 0x00#8 := by
  rw [ctrlByte, hardReset_dkr, hardReset_opr]
  rfl

/-- Every signal and flag of `STATUS` is low: `IN_RDY` by `STATE` alone, however much room `OQCAP` leaves (R35). -/
@[simp] theorem statusByte_hardReset (s : State) : statusByte (hardReset s) = 0x00#8 := by
  have hbusy : busy (hardReset s) = false := (busy_eq_false _).mpr (hardReset_phase s)
  have hinRdy : inRdy (hardReset s) = false := by simp [inRdy]
  have houtVld : outVld (hardReset s) = false := by simp [outVld]
  rw [statusByte, hbusy, hinRdy, houtVld, hardReset_ia, hardReset_perr, hardReset_dstop]
  rfl

/-! ### The two statements -/

/-- Settles O10: the step is `hardReset`, whose fields are those of the reset state except for the parameters and the
rest of the stream. -/
theorem resetEventClearsEverything : Obligations.ResetEventClearsEverything := by
  unfold Obligations.ResetEventClearsEverything
  intro s rest hhost
  exact ⟨hardReset { s with host := rest }, step_of_reset hhost, by simp⟩

/-- The state right after reset is what the reset event makes of it. -/
theorem hardReset_reset : hardReset State.reset = State.reset := rfl

/-- Settles O11: nothing is pending, the reads are those after a reset, and `B64E` needs no key. -/
theorem afterResetEverythingReadsZero : Obligations.AfterResetEverythingReadsZero := by
  unfold Obligations.AfterResetEverythingReadsZero
  have hstatus : statusByte State.reset = 0x00#8 := by rw [← hardReset_reset, statusByte_hardReset]
  have hctrl : ctrlByte State.reset = 0x00#8 := by rw [← hardReset_reset, ctrlByte_hardReset]
  have hkey (i : Byte) : readKey i State.reset = 0x00#8 := by rw [← hardReset_reset, readKey_hardReset]
  refine ⟨step_of_host_nil rfl, fun d => ?status, fun d => ?ctrl, fun d => rfl, fun i d => ?key, fun dk => ?command⟩
  case status => rw [exec_statr, hstatus, respond]
  case ctrl => rw [exec_ctrlr, hctrl, respond]
  case key => rw [exec_keyr, hkey, respond]
  case command => exact (unkeyedCommandsAreAccepted dk State.reset rfl).1

end Sys2Proof.Machine
end
